-- ==== Sys2Proof/Word.lean ====
section
/-! DEFINITION. The data widths of the block: a 32-bit word (WORD_BITS, R7) and the 8-bit byte of the
byte view of the block (R62). Every word is unsigned and its arithmetic wraps modulo 2^32 (R9, R100), which is
what `BitVec` arithmetic does. -/

namespace Sys2Proof

/-- A word of the block, of the key or of the bus: "an unsigned 32-bit value" (R11). -/
abbrev Word := BitVec 32

/-- A byte of the stream or of the byte view of the block (R62). -/
abbrev Byte := BitVec 8

end Sys2Proof
end

