-- ==== Sys2Proof/Syntax.lean ====
section
/-! DEFINITION. The commands of the block: one constructor for each row of spec/opcode_table.json (R81). -/

namespace Sys2Proof

/-- A command, as R81 names it. The argument is the field ARG, "an unsigned integer in 0..1023" (R82): the word
count N of SCRAMBLE and UNSCRAMBLE, the byte count L of CHUNK. The other four take none. -/
inductive Instr where
  /-- SCRAMBLE N (R112) -/
  | scramble (n : Nat)
  /-- UNSCRAMBLE N (R113) -/
  | unscramble (n : Nat)
  /-- KEYCLR (R197) -/
  | keyclr
  /-- ENCOPEN (R142) -/
  | encopen
  /-- DECOPEN (R143) -/
  | decopen
  /-- CHUNK L (R144 to R149) -/
  | chunk (l : Nat)
  /-- CLOSE (R151) -/
  | close
  deriving DecidableEq, Repr

end Sys2Proof
end

