-- ==== Sys2Proof/WellFormed.lean ====
section
/-! DEFINITION. Which commands a command word can hold: an argument fits the 10-bit field ARG (R80, R82). The
ranges that acceptance checks (N in 2..128, L at most 512) are no part of it: "The range checks on arg … belong to
acceptance, not decoding" (R86). -/

namespace Sys2Proof

/-- The number fits the field ARG, `w[25:16]` (R82). -/
def argFits (a : Nat) : Bool := decide (a < 1024)

/-- The command can be encoded: its argument, where it takes one, fits ARG (R82). -/
def Instr.wellFormed : Instr → Bool
  | .scramble n => argFits n
  | .unscramble n => argFits n
  | .keyclr => true
  | .encopen => true
  | .decopen => true
  | .chunk l => argFits l
  | .close => true

end Sys2Proof
end

