-- ==== Sys2Proof/Decode.lean ====
section
/-! DEFINITION. Decoding a command word, total on every word and rejecting by name (R80 to R87), and after it the
encoder, from the same tables. -/

namespace Sys2Proof

/-- Why a word is no command; R86 answers Illegal to each of them. -/
inductive DecodeError where
  /-- a bit of RSV0 or RSV1 is set (R83) -/
  | reservedBits
  /-- OP is 0x0 or 0x8 to 0xF (R84) -/
  | reservedOp
  /-- ARG is not 0 for a command that takes none (R85) -/
  | argNotZero
  deriving DecidableEq, Repr

/-! The fields of the one format CMDW (R80). -/

/-- OP = `w[3:0]`. -/
def opField (w : Word) : BitVec 4 := w.extractLsb' 0 4

/-- RSV0 = `w[15:4]`. -/
def rsv0Field (w : Word) : BitVec 12 := w.extractLsb' 4 12

/-- ARG = `zext_32(w[25:16])` (R82), as a number. -/
def argField (w : Word) : Nat := (w.extractLsb' 16 10).toNat

/-- RSV1 = `w[31:26]`. -/
def rsv1Field (w : Word) : BitVec 6 := w.extractLsb' 26 6

/-- A command that takes no argument: any other ARG than 0 is illegal (R85). -/
def withoutArg (arg : Nat) (i : Instr) : Except DecodeError Instr :=
  if arg = 0 then .ok i else .error .argNotZero

/-- `decode` of R86. -/
def decode (w : Word) : Except DecodeError Instr :=
  if rsv0Field w ≠ 0 ∨ rsv1Field w ≠ 0 then .error .reservedBits
  else
    match (opField w).toNat with
    | 0x1 => .ok (.scramble (argField w))
    | 0x2 => .ok (.unscramble (argField w))
    | 0x3 => withoutArg (argField w) .keyclr
    | 0x4 => withoutArg (argField w) .encopen
    | 0x5 => withoutArg (argField w) .decopen
    | 0x6 => .ok (.chunk (argField w))
    | 0x7 => withoutArg (argField w) .close
    | _ => .error .reservedOp

/-- The instruction the decoder reads from a row of spec/opcode_table.json: a command word is one 32-bit word, and
bits at or above `nbits` are 0. -/
def decodeTableWord (nbits w : Nat) : Option Instr :=
  match decode (BitVec.ofNat 32 (w % 2 ^ nbits)) with
  | .ok i => some i
  | .error _ => none

/-! The encoder. -/

/-- OP of a command (R81). -/
def opcode : Instr → BitVec 4
  | .scramble _ => 0x1
  | .unscramble _ => 0x2
  | .keyclr => 0x3
  | .encopen => 0x4
  | .decopen => 0x5
  | .chunk _ => 0x6
  | .close => 0x7

/-- ARG of a command; 0 where the command takes none (R81). -/
def argOf : Instr → Nat
  | .scramble n => n
  | .unscramble n => n
  | .keyclr => 0
  | .encopen => 0
  | .decopen => 0
  | .chunk l => l
  | .close => 0

/-- The word of a command in the format CMDW (R80): RSV1, ARG, RSV0, OP, high bits first. -/
def encode (i : Instr) : Word :=
  (0#6 ++ BitVec.ofNat 10 (argOf i) ++ 0#12 ++ opcode i : BitVec (6 + 10 + 12 + 4))

/-- A row of the table of R87 and of spec/opcode_table.json. -/
structure OpcodeRow where
  mnemonic : String
  pattern : Word
  mask : Word
  deriving DecidableEq, Repr

/-- A word belongs to a row when its masked bits are the row's. -/
def rowMatches (r : OpcodeRow) (w : Word) : Bool := w &&& r.mask == r.pattern

/-- The table of R87, row by row. -/
def opcodeRows : List OpcodeRow :=
  [⟨"SCRAMBLE", 0x00000001, 0xFC00FFFF⟩,
   ⟨"UNSCRAMBLE", 0x00000002, 0xFC00FFFF⟩,
   ⟨"KEYCLR", 0x00000003, 0xFFFFFFFF⟩,
   ⟨"ENCOPEN", 0x00000004, 0xFFFFFFFF⟩,
   ⟨"DECOPEN", 0x00000005, 0xFFFFFFFF⟩,
   ⟨"CHUNK", 0x00000006, 0xFC00FFFF⟩,
   ⟨"CLOSE", 0x00000007, 0xFFFFFFFF⟩]

/-- The mnemonic of a command, as spec/opcode_table.json spells it. -/
def mnemonicOf : Instr → String
  | .scramble _ => "SCRAMBLE"
  | .unscramble _ => "UNSCRAMBLE"
  | .keyclr => "KEYCLR"
  | .encopen => "ENCOPEN"
  | .decopen => "DECOPEN"
  | .chunk _ => "CHUNK"
  | .close => "CLOSE"

end Sys2Proof
end

