-- ==== Sys2Proof/Config.lean ====
section
/-! DEFINITION. What the spec leaves open (R8), as constants without a body: nothing proves a value of one, so a
statement about them holds for every value. The parameter `LAT` of R8 is no constant: it is the turns a state's
`schedule` lists (notes/assumptions/2.md). -/

namespace Sys2Proof.Config

/-- `buf_reset` (R8, R250, U3): the word that `BUF[i]` holds after reset number `k`, drawn once a reset and kept
until it is written. -/
opaque bufReset (k i : Nat) : Word

/-- `busy_read` (R8, R193, U2): what draw number `k` answers to a read of a `BUF` word while `STATUS.BUSY = 1`. -/
opaque busyRead (k : Nat) : Word

/-- R250, U4: what draw number `k` answers to a read of any word while `rst` is asserted. -/
opaque resetRead (k : Nat) : Word

/-- `BASE` (R8, R61, U13): the host address of byte offset 0 of the register window. -/
opaque base : Nat

/-- `IRQ_ROUTE` (R8, R222, U11): the number of the platform's interrupt line that `irq` drives. -/
opaque irqRoute : Nat

end Sys2Proof.Config
end

