-- ==== Sys2Proof/Machine/State.lean ====
section
/-! DEFINITION. The state of the block, of its port and of the host agent, as plain data; the reasons a step can
stop; and the state after reset (10_state.md, R60, R250). -/

namespace Sys2Proof.Machine

/-- STATUS.STREAM (R23): "0b00 IDLE, 0b01 ENC, 0b10 DEC, 0b11 END". -/
inductive Stream where
  /-- no stream -/
  | idle
  /-- an encrypt stream is open -/
  | enc
  /-- a decrypt stream is open -/
  | dec
  /-- END: "the final chunk has been processed" (R141) -/
  | ended
  deriving DecidableEq, Repr

/-- An access on the bus port: `read(wa)` or `write(wa, v)` (R180). One that is presented has `sel = 1`; the
constructor is `we`, the arguments are `wa` and `wdata` (R60). -/
inductive Access where
  | read (wa : BitVec 8)
  | write (wa : BitVec 8) (v : Word)
  deriving DecidableEq, Repr

/-- What a word address names (R61). -/
inductive Reg where
  | ctrl
  | status
  | err
  | cmd
  | outlen
  | blkcnt
  | key (i : Fin 4)
  | buf (i : Fin 128)
  /-- "Unmapped words are RAZ/WI" (R61, R195). -/
  | unmapped
  deriving DecidableEq, Repr

/-- What the host does next, in its program order (R4, R67, R89, R254, R258). -/
inductive HostAction where
  /-- one bus access -/
  | access (a : Access)
  /-- the pseudo-instruction `wait`: read STATUS until bit 0 of the value read is 0 (R89) -/
  | wait
  /-- wait until the `irq` output is 1 (R68, R254) -/
  | waitIrq
  /-- drive the `rst` input to a level (R60, R250) -/
  | rst (level : Bool)
  deriving DecidableEq, Repr

/-- The two agents whose steps interleave (R4, R67): the host with the front end that answers it, and the engine
sequencer. -/
inductive Turn where
  | host
  | engine
  deriving DecidableEq, Repr

/-- The errors a rejected access records (R220). -/
inductive ErrorName where
  /-- "a write that needs the block idle, made while BUSY = 1" -/
  | busy
  /-- a command word that is no command -/
  | illegal
  /-- a command that needs the key while KEYV = 0 -/
  | nokey
  /-- a command in the wrong stream state -/
  | stream
  /-- a change of the key while a stream is open -/
  | keylock
  /-- ARG outside its legal range -/
  | badarg
  deriving DecidableEq, Repr

/-- Why the machine stops. Each is raised only by the engine sequencer on a pending command that acceptance never
lets through (R188), so no run from reset meets one, and the stop is safe. -/
inductive Fault where
  /-- SCRAMBLE or UNSCRAMBLE performed with N < 2 or N > 128. "For n < 2 the source says the algorithm is
  undefined/degenerate; this hardware never applies a transform with n < 2" (R109). Safe. -/
  | wordCountOutOfRange
  /-- CHUNK performed while no stream is open; R145 to R149 give no effect there. Safe. -/
  | chunkOutsideStream
  /-- CHUNK performed with L > 512; R145 to R149 give no effect there. Safe. -/
  | chunkTooLong
  deriving DecidableEq, Repr

/-- Why a step is refused. -/
inductive Refusal where
  /-- raised by an arm of `exec` whose instruction has no meaning yet; no arm raises it now. Safe. -/
  | notModelled (mnemonic : String)
  deriving DecidableEq, Repr

/-- The machine. First the registers of the block (10_state.md), then its hidden state (R28, R29), its input
signals (R60), and last what belongs to the host agent and to the model. -/
structure State where
  /-- CTRL.IE (R22) -/
  ie : Bool
  /-- STATUS.BUSY (R23) -/
  busy : Bool
  /-- STATUS.DONE (R23) -/
  done : Bool
  /-- STATUS.STREAM (R23) -/
  stream : Stream
  /-- ERR.CODE (R24) -/
  err : BitVec 8
  /-- OUTLEN.LEN (R26) -/
  outlen : BitVec 10
  /-- BLKCNT (R27) -/
  blkcnt : Word
  /-- KEY[0..3] (R20) -/
  key : Vector Word 4
  /-- BUF[0..127] (R21) -/
  buf : Vector Word 128
  /-- KEYWR[3:0] (R28) -/
  keywr : BitVec 4
  /-- PEND (R29): empty, or the command being executed -/
  pend : Option Instr
  /-- the level of the `rst` input (R60, R250) -/
  rst : Bool
  /-- the port inputs `sel`, `we`, `wa`, `wdata` of this step (R60); `none` is `sel = 0` -/
  bus : Option Access
  /-- the values the host's reads returned, the last one first (R259) -/
  reads : List Word
  /-- what the host does from here on, the next action first (R4) -/
  script : List HostAction
  /-- which agent moves in the coming steps, the next one first (R67, R257) -/
  schedule : List Turn
  /-- how many free values have been drawn (R8) -/
  draws : Nat
  deriving DecidableEq, Repr

/-- The contents of BUF after reset number `k`: "each word holds an arbitrary value" (R250, U3). -/
def drawBlock (k : Nat) : Vector Word 128 := Vector.ofFn fun i => Config.bufReset k i.val

/-- The machine right after reset (R250), `rst` released, with nothing on the port, no host program and no
schedule. -/
def State.reset : State where
  ie := false
  busy := false
  done := false
  stream := .idle
  err := 0x00
  outlen := 0
  blkcnt := 0x00000000
  key := Vector.replicate 4 0x00000000
  buf := drawBlock 0
  keywr := 0b0000
  pend := none
  rst := false
  bus := none
  reads := []
  script := []
  schedule := []
  draws := 1

end Sys2Proof.Machine
end

