-- ==== Sys2Proof/Machine/Flags.lean ====
section
/-! DEFINITION. The flags and the words software sees them in: STATUS, CTRL, ERR, OUTLEN, and the `irq` output
(R22 to R26, R28, R33). -/

namespace Sys2Proof.Machine

/-- The two bits of STATUS.STREAM (R23). -/
def streamBits : Stream → BitVec 2
  | .idle => 0b00
  | .enc => 0b01
  | .dec => 0b10
  | .ended => 0b11

/-- A stream is open: STREAM is ENC or DEC (R141, R192). -/
def streamOpen : Stream → Bool
  | .idle => false
  | .enc => true
  | .dec => true
  | .ended => false

/-- `STATUS.KEYV = (KEYWR = 0b1111)` (R28). -/
def keyValid (s : State) : Bool := s.keywr == 0b1111

/-- What STATUS reads as: `{26'b0, STREAM[1:0], 1'b0, KEYV, DONE, BUSY}` (R183). -/
def statusWord (s : State) : Word :=
  (0#26 ++ streamBits s.stream ++ 0#1 ++ BitVec.ofBool (keyValid s) ++ BitVec.ofBool s.done
    ++ BitVec.ofBool s.busy : BitVec (26 + 2 + 1 + 1 + 1 + 1))

/-- What CTRL reads as: `zext_32(CTRL.IE)` (R181). -/
def ctrlWord (s : State) : Word := (BitVec.ofBool s.ie).setWidth 32

/-- What ERR reads as: `zext_32(ERR.CODE)` (R185). -/
def errWord (s : State) : Word := s.err.setWidth 32

/-- What OUTLEN reads as: `zext_32(OUTLEN.LEN)` (R189). -/
def outlenWord (s : State) : Word := s.outlen.setWidth 32

/-- The level output `irq = CTRL.IE & (STATUS.DONE | (ERR.CODE ≠ 0))` (R33). -/
def irq (s : State) : Bool := s.ie && (s.done || s.err != 0)

/-- The platform's interrupt line that `irq` raises, where it does (R222, `IRQ_ROUTE` of R8). -/
def raisedLine (s : State) : Option Nat := if irq s then some Config.irqRoute else none

end Sys2Proof.Machine
end

