-- ==== Sys2Proof/Machine/Cipher.lean ====
section
/-! DEFINITION. The Block Cipher Engine as pure functions (R100 to R108). A block is the list of its words; a key is
the four words KEY[0..3]. -/

namespace Sys2Proof.Machine

/-- DELTA (R101). -/
def delta : Word := 0x9E3779B9

/-- The number of rounds `Q(n) = 6 + (52 div n)` (R102). -/
def roundCount (n : Nat) : Nat := 6 + 52 / n

/-- Word `i` of a block; the index is below the length wherever a rule reads a word. -/
def wordAt (v : List Word) (i : Nat) : Word := v.getD i 0

/-- The key schedule selector `e(sum) = sum[3:2]` (R103). -/
def selector (sum : Word) : BitVec 2 := sum.extractLsb' 2 2

/-- The key word `KEY[(p & 3) xor e]` (R104). -/
def keyWord (key : Vector Word 4) (p : Nat) (e : BitVec 2) : Word :=
  key[(BitVec.ofNat 2 p ^^^ e).toFin]

/-- The mixing function (R105), with its four inner terms named as there. -/
def mx (key : Vector Word 4) (z y sum : Word) (p : Nat) (e : BitVec 2) : Word :=
  let t1 := (z >>> 5) ^^^ (y <<< 2)
  let t2 := (y >>> 3) ^^^ (z <<< 4)
  let t3 := sum ^^^ y
  let t4 := keyWord key p e ^^^ z
  (t1 + t2) ^^^ (t3 + t4)

/-- The walk of R107 from left to right, from word `p` on: each word takes its right neighbour `y` and the word just
updated, `z`. The last word stays for the wrap-around. -/
def forwardWalk (key : Vector Word 4) (sum : Word) (e : BitVec 2) : Nat → Word → List Word → List Word
  | p, z, x :: y :: rest =>
    let w := x + mx key z y sum p e
    w :: forwardWalk key sum e (p + 1) w (y :: rest)
  | _, _, last => last

/-- One round of R107: the walk over words 0 to n−2, and the wrap-around update of the last word, "using the first
word". It answers the block and the left value `z` it carries on. -/
def forwardRound (n : Nat) (key : Vector Word 4) (sum : Word) (vz : List Word × Word) : List Word × Word :=
  let e := selector sum
  let u := forwardWalk key sum e 0 vz.2 vz.1
  let w := wordAt u (n - 1) + mx key (wordAt u (n - 2)) (wordAt u 0) sum (n - 1) e
  (u.set (n - 1) w, w)

/-- `repeat q times` of R107; `sum` is the running sum before the first of these rounds. -/
def forwardRounds (n : Nat) (key : Vector Word 4) : Nat → Word → List Word × Word → List Word
  | 0, _, vz => vz.1
  | q + 1, sum, vz => forwardRounds n key q (sum + delta) (forwardRound n key (sum + delta) vz)

/-- The forward transform `scramble(v, n, K)` (R107). -/
def scramble (n : Nat) (key : Vector Word 4) (v : List Word) : List Word :=
  forwardRounds n key (roundCount n) 0x00000000 (v, wordAt v (n - 1))

/-- The walk of R108 from right to left, down to word `p`: the words right of it come first, so that each word takes
its left neighbour `z` as it was and its right neighbour as just updated; `y` is the right value of the last word. -/
def backwardWalk (key : Vector Word 4) (sum : Word) (e : BitVec 2) (y : Word) : Nat → Word → List Word → List Word
  | _, _, [] => []
  | p, z, x :: rest =>
    let u := backwardWalk key sum e y (p + 1) x rest
    (x - mx key z (u.headD y) sum p e) :: u

/-- One iteration of the loop of R108: the walk over words n−1 down to 1, and the wrap-around update of word 0,
"using the last word". It answers the block and the right value `y` it carries on. -/
def backwardRound (n : Nat) (key : Vector Word 4) (sum : Word) (vy : List Word × Word) : List Word × Word :=
  let e := selector sum
  let u := backwardWalk key sum e vy.2 1 (wordAt vy.1 0) (vy.1.drop 1)
  let w := wordAt vy.1 0 - mx key (wordAt u (n - 2)) (wordAt u 0) sum 0 e
  (w :: u, w)

/-- `while sum != 0` of R108. The loop "runs exactly q = Q(n) times" (R111): `fuel` is how often it may still run,
and Q(n) of it is enough. -/
def backwardRounds (n : Nat) (key : Vector Word 4) : Nat → Word → List Word × Word → List Word
  | 0, _, vy => vy.1
  | fuel + 1, sum, vy =>
    if sum = 0 then vy.1
    else backwardRounds n key fuel (sum - delta) (backwardRound n key sum vy)

/-- The sum the inverse transform starts from: `q * DELTA` modulo 2^32 (R108). -/
def startSum (n : Nat) : Word := BitVec.ofNat 32 (roundCount n) * delta

/-- The inverse transform `unscramble(v, n, K)` (R108). -/
def unscramble (n : Nat) (key : Vector Word 4) (v : List Word) : List Word :=
  backwardRounds n key (roundCount n) (startSum n) (v, wordAt v 0)

end Sys2Proof.Machine
end

