-- ==== Sys2Proof/Machine/Bytes.lean ====
section
/-! DEFINITION. The byte view of the block, the padding, and the File Block Pipeline as pure functions over byte
sequences (R62, R150, R152, R153). -/

namespace Sys2Proof.Machine

/-- PAD_BYTE: ASCII '0' (R7, R146). -/
def padByte : Byte := 0x30

/-- BLOCK_BYTES (R7, R140). -/
def blockBytes : Nat := 512

/-- Byte `k` of a word, counted from its low end: `w[8k+7 : 8k]` (R62). -/
def byteOfWord (w : Word) (k : Nat) : Byte := w.extractLsb' (8 * k) 8

/-- `byte(BUF, j)` (R62). -/
def blockByte (v : List Word) (j : Nat) : Byte := byteOfWord (wordAt v (j / 4)) (j % 4)

/-- A word with byte `k` replaced and the "other 24 bits unchanged" (R62). -/
def replaceByte (w : Word) (k : Nat) (c : Byte) : Word :=
  (w &&& ~~~(0xFF#32 <<< (8 * k))) ||| (c.setWidth 32 <<< (8 * k))

/-- `setbyte(BUF, j, c)` (R62). -/
def setBlockByte (v : List Word) (j : Nat) (c : Byte) : List Word :=
  v.set (j / 4) (replaceByte (wordAt v (j / 4)) (j % 4) c)

/-- One word from its four bytes, `s[4i] | (s[4i+1] << 8) | (s[4i+2] << 16) | (s[4i+3] << 24)` (R62). -/
def wordOfBytes (b0 b1 b2 b3 : Byte) : Word :=
  b0.setWidth 32 ||| (b1.setWidth 32 <<< 8) ||| (b2.setWidth 32 <<< 16) ||| (b3.setWidth 32 <<< 24)

/-- `words_of(s)` (R62), for a sequence whose length is a multiple of four. -/
def wordsOf : List Byte → List Word
  | b0 :: b1 :: b2 :: b3 :: rest => wordOfBytes b0 b1 b2 b3 :: wordsOf rest
  | _ => []

/-- `bytes_of(w)` (R62). -/
def bytesOf (ws : List Word) : List Byte :=
  ws.flatMap fun w => [byteOfWord w 0, byteOfWord w 1, byteOfWord w 2, byteOfWord w 3]

/-- `pad(L)`: 0x30 in block bytes L..511 (R146, R150). -/
def pad (l : Nat) (v : List Word) : List Word :=
  (List.range' l (blockBytes - l)).foldl (fun u j => setBlockByte u j padByte) v

/-- The output of one encrypted chunk: the chunk filled up to 512 bytes with 0x30, scrambled (R152). -/
def encryptChunk (key : Vector Word 4) (c : List Byte) : List Byte :=
  bytesOf (scramble 128 key (wordsOf (c ++ List.replicate (blockBytes - c.length) padByte)))

/-- The output of one decrypted chunk of 512 bytes (R153). -/
def decryptChunk (key : Vector Word 4) (c : List Byte) : List Byte :=
  bytesOf (unscramble 128 key (wordsOf c))

/-- Chunk `i` of a stream: `D[512i .. min(512i + 512, ℓ))` (R152). -/
def chunkAt (d : List Byte) (i : Nat) : List Byte := (d.drop (512 * i)).take 512

/-- `EncryptStream(K, D)` (R152). -/
def encryptStream (key : Vector Word 4) (d : List Byte) : List Byte :=
  (List.range ((d.length + 511) / 512)).flatMap fun i => encryptChunk key (chunkAt d i)

/-- `DecryptStream(K, D)` (R153). -/
def decryptStream (key : Vector Word 4) (d : List Byte) : List Byte :=
  (List.range (d.length / 512)).flatMap fun i => decryptChunk key (chunkAt d i)

end Sys2Proof.Machine
end

