-- ==== Sys2Proof/Machine/Operands.lean ====
section
/-! DEFINITION. The operands: the legal ranges of ARG (R81, R82), the address map (R61), and the words of BUF that a
transform reads and rewrites (R112, R145). -/

namespace Sys2Proof.Machine

/-- N is in 2..128, N_MIN to N_MAX (R7, R81). -/
def wordCountOk (n : Nat) : Bool := decide (2 ≤ n ∧ n ≤ 128)

/-- L is in 0..512 (R81). -/
def chunkLengthOk (l : Nat) : Bool := decide (l ≤ blockBytes)

/-- The register that a word address names (R61). -/
def regAt (wa : BitVec 8) : Reg :=
  if wa = 0x00 then .ctrl
  else if wa = 0x01 then .status
  else if wa = 0x02 then .err
  else if wa = 0x03 then .cmd
  else if wa = 0x04 then .outlen
  else if wa = 0x05 then .blkcnt
  else if h : 0x08 ≤ wa.toNat ∧ wa.toNat ≤ 0x0B then .key ⟨wa.toNat - 0x08, by omega⟩
  else if h : 0x80 ≤ wa.toNat then .buf ⟨wa.toNat - 0x80, by have := wa.isLt; omega⟩
  else .unmapped

/-- The word address of a register (R61); an unmapped one has none of its own and stands for 0x06. -/
def regAddress : Reg → BitVec 8
  | .ctrl => 0x00
  | .status => 0x01
  | .err => 0x02
  | .cmd => 0x03
  | .outlen => 0x04
  | .blkcnt => 0x05
  | .key i => BitVec.ofNat 8 (0x08 + i.val)
  | .buf i => BitVec.ofNat 8 (0x80 + i.val)
  | .unmapped => 0x06

/-- The host address of a word of the window: `BASE` and the byte offset `4·wa` (R60, R61). -/
def hostAddress (wa : BitVec 8) : Nat := Config.base + 4 * wa.toNat

/-- The words of `u` laid over the block from word 0 on; the words of the block behind them stay. -/
def overlay (u : List Word) (b : Vector Word 128) : Vector Word 128 :=
  Vector.ofFn fun i => u.getD i.val b[i]

/-- `(BUF[0], …, BUF[n-1]) <- f(BUF[0], …, BUF[n-1])`, the words from `n` on unchanged (R112, R113, R145, R148). -/
def onWords (n : Nat) (f : List Word → List Word) (b : Vector Word 128) : Vector Word 128 :=
  overlay (f (b.toList.take n)) b

/-- `pad(L)` on BUF (R150). -/
def padBlock (l : Nat) (b : Vector Word 128) : Vector Word 128 := onWords 128 (pad l) b

end Sys2Proof.Machine
end

