-- ==== Sys2Proof/Machine/Ops.lean ====
section
/-! DEFINITION. The operations the commands and the register accesses share: recording an error and clearing it, the
acceptance and the completion of a command, the block output, and reset (R10, R188, R196, R198, R250). -/

namespace Sys2Proof.Machine

/-- The code of an error (R220). -/
def errorCode : ErrorName → BitVec 8
  | .busy => 0x01
  | .illegal => 0x02
  | .nokey => 0x03
  | .stream => 0x04
  | .keylock => 0x05
  | .badarg => 0x06

/-- `recordError(code)` (R198), which is all that an error's entry does: "Its only effect is recordError(code) …
Nothing else is saved, no mode changes, and control goes nowhere" (R224). -/
def recordError (e : ErrorName) (s : State) : State :=
  if s.err = 0x00 then { s with err := errorCode e } else s

/-- The return from an error: "There is no return instruction. The host clears ERR by writing to it" (R225, R186). -/
def clearError (s : State) : State := { s with err := 0x00 }

/-- The first check that fails, in the order given: "first match wins" (R112, R223). -/
def firstFailure : List (Bool × ErrorName) → Option ErrorName
  | [] => none
  | (fails, e) :: rest => if fails then some e else firstFailure rest

/-- `start(c)`: `PEND <- c; BUSY <- 1; DONE <- 0` (R188). -/
def start (i : Instr) (s : State) : State := { s with pend := some i, busy := true, done := false }

/-- Acceptance of a command: the first failing check rejects it, otherwise it starts (R188). -/
def offer (i : Instr) (checks : List (Bool × ErrorName)) (s : State) : State :=
  match firstFailure checks with
  | some e => recordError e s
  | none => start i s

/-- The end of every completion: `PEND <- empty; BUSY <- 0; DONE <- 1` (R196). -/
def finish (s : State) : State := { s with pend := none, busy := false, done := true }

/-- A block is output: BUF holds it, `OUTLEN <- 512; BLKCNT <- BLKCNT + 1` modulo 2^32 (R145, R146, R148). -/
def outputBlock (b : Vector Word 128) (s : State) : State :=
  { s with buf := b, outlen := 512, blkcnt := s.blkcnt + 1 }

/-- A stream opens: `STREAM <- ENC` or `DEC`, `OUTLEN <- 0; BLKCNT <- 0` (R142, R143). -/
def openStream (m : Stream) (s : State) : State := { s with stream := m, outlen := 0, blkcnt := 0 }

/-- The stream's final chunk is done: `STREAM <- END` (R146, R147, R149). -/
def endStream (s : State) : State := { s with stream := .ended }

/-- Nothing is output: `OUTLEN <- 0` (R147, R149). -/
def outputNothing (s : State) : State := { s with outlen := 0 }

/-- KEY[i] is written: the word, and its bit of KEYWR (R192). -/
def writeKeyWord (i : Fin 4) (v : Word) (s : State) : State :=
  { s with key := s.key.set i v, keywr := s.keywr ||| (1#4 <<< i.val) }

/-- The key is cleared: `KEY[0..3] <- 0x00000000; KEYWR <- 0b0000` (R197). -/
def clearKey (s : State) : State := { s with key := Vector.replicate 4 0x00000000, keywr := 0b0000 }

/-- BUF[i] is written (R194). -/
def writeBufWord (i : Fin 128) (v : Word) (s : State) : State := { s with buf := s.buf.set i v }

/-- `rst` is asserted: every register of the block takes its reset value, a pending command is abandoned, and BUF
holds new arbitrary words (R250, R251). What belongs to the host and the model stays. -/
def assertReset (s : State) : State :=
  { State.reset with
    buf := drawBlock s.draws, rst := true, bus := none
    reads := s.reads, script := s.script, schedule := s.schedule, draws := s.draws + 1 }

/-- `rst` is released (R250, R252). -/
def releaseReset (s : State) : State := { s with rst := false }

end Sys2Proof.Machine
end

