-- ==== Sys2Proof/Machine/Engine.lean ====
section
/-! DEFINITION. The commands of the Block Cipher Engine: SCRAMBLE and UNSCRAMBLE (40_engine.md R112, R113). A
command's meaning has the two phases of R10: while an access is on the port the front end accepts or rejects the
command; otherwise the engine sequencer performs it (notes/assumptions/1.md). -/

namespace Sys2Proof.Machine

/-- The checks of R112 and R113 after decoding: BUSY, NOKEY, BADARG. -/
def transformChecks (n : Nat) (s : State) : List (Bool × ErrorName) :=
  [(s.busy, .busy), (!keyValid s, .nokey), (!wordCountOk n, .badarg)]

/-- SCRAMBLE N (R112). -/
def execScramble (n : Nat) (s : State) : Host.Outcome State Fault Refusal :=
  match s.bus with
  | some _ => .next (offer (.scramble n) (transformChecks n s) s)
  | none =>
    if wordCountOk n then .next (finish { s with buf := onWords n (scramble n s.key) s.buf })
    else .fault .wordCountOutOfRange

/-- UNSCRAMBLE N (R113). -/
def execUnscramble (n : Nat) (s : State) : Host.Outcome State Fault Refusal :=
  match s.bus with
  | some _ => .next (offer (.unscramble n) (transformChecks n s) s)
  | none =>
    if wordCountOk n then .next (finish { s with buf := onWords n (unscramble n s.key) s.buf })
    else .fault .wordCountOutOfRange

end Sys2Proof.Machine
end

