-- ==== Sys2Proof/Machine/Key.lean ====
section
/-! DEFINITION. The command of the key registers: KEYCLR (42_interface.md R197). -/

namespace Sys2Proof.Machine

/-- KEYCLR (R197): acceptance while an access is on the port, completion otherwise. -/
def execKeyclr (s : State) : Host.Outcome State Fault Refusal :=
  match s.bus with
  | some _ => .next (offer .keyclr [(s.busy, .busy), (streamOpen s.stream, .keylock)] s)
  | none => .next (finish (clearKey s))

end Sys2Proof.Machine
end

