-- ==== Sys2Proof/Machine/Pipeline.lean ====
section
/-! DEFINITION. The commands of the File Block Pipeline: ENCOPEN, DECOPEN, CHUNK and CLOSE (41_pipeline.md R142 to
R151), each with its acceptance, while an access is on the port, and its completion. -/

namespace Sys2Proof.Machine

/-- The checks of R142 and R143 after decoding: BUSY, NOKEY, STREAM. -/
def openChecks (s : State) : List (Bool × ErrorName) :=
  [(s.busy, .busy), (!keyValid s, .nokey), (streamOpen s.stream, .stream)]

/-- ENCOPEN (R142). -/
def execEncopen (s : State) : Host.Outcome State Fault Refusal :=
  match s.bus with
  | some _ => .next (offer .encopen (openChecks s) s)
  | none => .next (finish (openStream .enc s))

/-- DECOPEN (R143). -/
def execDecopen (s : State) : Host.Outcome State Fault Refusal :=
  match s.bus with
  | some _ => .next (offer .decopen (openChecks s) s)
  | none => .next (finish (openStream .dec s))

/-- The completion of CHUNK L in an encrypt stream: R147 for L = 0, R146 for 0 < L < 512, R145 for L = 512. -/
def encryptStep (l : Nat) (s : State) : State :=
  if l = 0 then endStream (outputNothing s)
  else if l < blockBytes then
    endStream (outputBlock (onWords 128 (scramble 128 s.key) (padBlock l s.buf)) s)
  else outputBlock (onWords 128 (scramble 128 s.key) s.buf) s

/-- The completion of CHUNK L in a decrypt stream: R149 for L < 512, R148 for L = 512. -/
def decryptStep (l : Nat) (s : State) : State :=
  if l < blockBytes then endStream (outputNothing s)
  else outputBlock (onWords 128 (unscramble 128 s.key) s.buf) s

/-- The completion of CHUNK L, "by the stream mode and L, exactly one of rules R145 to R149" (R144). -/
def performChunk (l : Nat) (s : State) : Host.Outcome State Fault Refusal :=
  if chunkLengthOk l then
    match s.stream with
    | .enc => .next (finish (encryptStep l s))
    | .dec => .next (finish (decryptStep l s))
    | .idle => .fault .chunkOutsideStream
    | .ended => .fault .chunkOutsideStream
  else .fault .chunkTooLong

/-- CHUNK L (R144 to R149). -/
def execChunk (l : Nat) (s : State) : Host.Outcome State Fault Refusal :=
  match s.bus with
  | some _ =>
    .next (offer (.chunk l)
      [(s.busy, .busy), (!streamOpen s.stream, .stream), (!chunkLengthOk l, .badarg)] s)
  | none => performChunk l s

/-- CLOSE (R151). -/
def execClose (s : State) : Host.Outcome State Fault Refusal :=
  match s.bus with
  | some _ => .next (offer .close [(s.busy, .busy)] s)
  | none => .next (finish { s with stream := .idle })

end Sys2Proof.Machine
end

