-- ==== Sys2Proof/Machine/Dispatch.lean ====
section
/-! DEFINITION. One arm per command: its meaning. -/

namespace Sys2Proof.Machine

def exec (i : Instr) (s : State) : Host.Outcome State Fault Refusal :=
  match i with
  | .scramble n => Sys2Proof.Machine.execScramble n s
  | .unscramble n => Sys2Proof.Machine.execUnscramble n s
  | .keyclr => Sys2Proof.Machine.execKeyclr s
  | .encopen => Sys2Proof.Machine.execEncopen s
  | .decopen => Sys2Proof.Machine.execDecopen s
  | .chunk l => Sys2Proof.Machine.execChunk l s
  | .close => Sys2Proof.Machine.execClose s

end Sys2Proof.Machine
end

