-- ==== Sys2Proof/Machine/FrontEnd.lean ====
section
/-! DEFINITION. The agents of R4: the front end's answer to each register access (R180 to R195), the host's next
action, and the engine sequencer's completion (R196). Fetching a command is decoding the word written to CMD (R188) or
taking it from PEND (R196). -/

namespace Sys2Proof.Machine

/-! The front end: reads. -/

/-- What `read(wa)` returns when `rst` is released (R181, R183, R185, R187, R189, R190, R191, R193, R195). -/
def readReg (wa : BitVec 8) (s : State) : Word :=
  match regAt wa with
  | .ctrl => ctrlWord s
  | .status => statusWord s
  | .err => errWord s
  | .cmd => 0x00000000
  | .outlen => outlenWord s
  | .blkcnt => s.blkcnt
  | .key i => s.key[i]
  | .buf i => if s.busy then Config.busyRead s.draws else s.buf[i]
  | .unmapped => 0x00000000

/-- What a read returns: while `rst` is asserted "an unspecified value" (R250), otherwise the register's. -/
def readValue (wa : BitVec 8) (s : State) : Word :=
  if s.rst then Config.resetRead s.draws else readReg wa s

/-- The read takes a free value: any read during reset (R250), a read of BUF while BUSY = 1 (R193). -/
def readDraws (wa : BitVec 8) (s : State) : Bool :=
  s.rst || (s.busy && match regAt wa with | .buf _ => true | _ => false)

/-- A read: the host gets the value; "No register changes on a read" (R65). -/
def hostRead (wa : BitVec 8) (s : State) : State :=
  { s with
    reads := readValue wa s :: s.reads
    draws := if readDraws wa s then s.draws + 1 else s.draws }

/-! The front end: writes. -/

/-- `writeKEY(i, v)` (R192). -/
def writeKey (i : Fin 4) (v : Word) (s : State) : State :=
  match firstFailure [(s.busy, .busy), (streamOpen s.stream, .keylock)] with
  | some e => recordError e s
  | none => writeKeyWord i v s

/-- `writeBUF(i, v)` (R194). -/
def writeBuf (i : Fin 128) (v : Word) (s : State) : State :=
  match firstFailure [(s.busy, .busy)] with
  | some e => recordError e s
  | none => writeBufWord i v s

/-- `writeCMD(w)` (R188): a word that is no command is rejected, with BUSY before ILLEGAL (R83, R223); a command is
handed to its meaning, which checks the rest. -/
def writeCmd (w : Word) (s : State) : Host.Outcome State Fault Refusal :=
  match decode w with
  | .ok i => exec i s
  | .error _ => .next (recordError (if s.busy then .busy else .illegal) s)

/-- `write(wa, v)` when `rst` is released (R182, R184, R186, R188, R189, R190, R192, R194, R195). -/
def writeReg (wa : BitVec 8) (v : Word) (s : State) : Host.Outcome State Fault Refusal :=
  match regAt wa with
  | .ctrl => .next { s with ie := v.getLsbD 0 }
  | .status => .next (if v.getLsbD 1 then { s with done := false } else s)
  | .err => .next (clearError s)
  | .cmd => writeCmd v s
  | .outlen => .next s
  | .blkcnt => .next s
  | .key i => .next (writeKey i v s)
  | .buf i => .next (writeBuf i v s)
  | .unmapped => .next s

/-- One bus access: it stands on the port and the front end answers it. While `rst` is asserted "every host access is
ignored and returns an unspecified value" (R250). -/
def access (a : Access) (s : State) : Host.Outcome State Fault Refusal :=
  let p := { s with bus := some a }
  match a with
  | .read wa => .next (hostRead wa p)
  | .write wa v => if s.rst then .next p else writeReg wa v p

/-! The host. -/

/-- One poll of `wait` (R89): read STATUS, and go on when bit 0 of the value read is 0. -/
def poll (rest : List HostAction) (s : State) : State :=
  let p := { s with bus := some (.read 0x01) }
  let t := hostRead 0x01 p
  if (readValue 0x01 p).getLsbD 0 then t else { t with script := rest }

/-- A step of the host: its next action, or no access where it has none left. -/
def hostStep (s : State) : Host.Outcome State Fault Refusal :=
  match s.script with
  | [] => .next { s with bus := none }
  | .access a :: rest => access a { s with script := rest }
  | .wait :: rest => .next (poll rest s)
  | .waitIrq :: rest => .next { s with bus := none, script := if irq s then rest else s.script }
  | .rst true :: rest => .next (assertReset { s with script := rest })
  | .rst false :: rest => .next (releaseReset { s with bus := none, script := rest })

/-! The engine sequencer. -/

/-- A step of the engine sequencer: "enabled exactly when PEND ≠ empty", it performs the pending command with nothing
on the port (R196). Under reset it does nothing (R251). -/
def engineStep (s : State) : Host.Outcome State Fault Refusal :=
  let p := { s with bus := none }
  if s.rst then .next p
  else
    match s.pend with
    | none => .next p
    | some i => exec i p

/-- The agent that moves next: the one the schedule names; with the schedule used up, the engine sequencer while its
completion is enabled, which is how a completion is "eventually taken" (R257), and the host otherwise. -/
def nextTurn (s : State) : Turn :=
  match s.schedule with
  | t :: _ => t
  | [] => if s.pend.isSome && !s.rst then .engine else .host

end Sys2Proof.Machine
end

