-- ==== Sys2Proof/Machine/Step.lean ====
section
/-! DEFINITION. One step of the machine, and the state whose next step runs a given command word. -/

namespace Sys2Proof.Machine

/-- One step: the agent whose turn it is moves, and the turn is used up (R67). -/
def step (s : State) : Host.Outcome State Fault Refusal :=
  match nextTurn s with
  | .host => hostStep { s with schedule := s.schedule.tail }
  | .engine => engineStep { s with schedule := s.schedule.tail }

/-- The state in which the next step is the host's and the host writes the word to CMD: that is where a command word
comes from (R25, R70, R188). It takes the place of the host program's load (notes/assumptions/3.md). -/
def State.withFetchWord (s : State) (nbits w : Nat) : State :=
  { s with
    rst := false
    script := .access (.write 0x03 (BitVec.ofNat 32 (w % 2 ^ nbits))) :: s.script
    schedule := .host :: s.schedule }

end Sys2Proof.Machine
end

