-- ==== Sys2Proof/Machine/Pseudocode.lean ====
section
/-! DEFINITION. The transforms a second and a third time, for statements to compare with: by index, assignment for
assignment as the pseudocode of R107 and R108 stands, and on the ring of R106. -/

namespace Sys2Proof.Machine

/-! By index (R107, R108). -/

/-- `for p = …: y <- v[p+1]; v[p] <- v[p] + MX(z, y, sum, p, e); z <- v[p]` over the indices listed (R107). -/
def indexForwardWalk (key : Vector Word 4) (sum : Word) (e : BitVec 2) :
    List Nat → List Word × Word → List Word × Word
  | [], vz => vz
  | p :: ps, (v, z) =>
    let y := wordAt v (p + 1)
    let w := wordAt v p + mx key z y sum p e
    indexForwardWalk key sum e ps (v.set p w, w)

/-- The body of `repeat q times`, after `sum <- sum + DELTA` (R107). -/
def indexForwardRound (n : Nat) (key : Vector Word 4) (sum : Word) (vz : List Word × Word) : List Word × Word :=
  let e := (sum >>> 2) &&& 3
  let (v, z) := indexForwardWalk key sum (e.setWidth 2) (List.range (n - 1)) vz
  let y := wordAt v 0
  let w := wordAt v (n - 1) + mx key z y sum (n - 1) (e.setWidth 2)
  (v.set (n - 1) w, w)

/-- `repeat q times` (R107). -/
def indexForwardRounds (n : Nat) (key : Vector Word 4) : Nat → Word → List Word × Word → List Word
  | 0, _, (v, _) => v
  | q + 1, sum, vz => indexForwardRounds n key q (sum + delta) (indexForwardRound n key (sum + delta) vz)

/-- `scramble(v, n, K)` by index (R107). -/
def indexScramble (n : Nat) (key : Vector Word 4) (v : List Word) : List Word :=
  indexForwardRounds n key (6 + 52 / n) 0 (v, wordAt v (n - 1))

/-- `for p = …: z <- v[p-1]; v[p] <- v[p] - MX(z, y, sum, p, e); y <- v[p]` over the indices listed (R108). -/
def indexBackwardWalk (key : Vector Word 4) (sum : Word) (e : BitVec 2) :
    List Nat → List Word × Word → List Word × Word
  | [], vy => vy
  | p :: ps, (v, y) =>
    let z := wordAt v (p - 1)
    let w := wordAt v p - mx key z y sum p e
    indexBackwardWalk key sum e ps (v.set p w, w)

/-- The body of `while sum != 0`, before `sum <- sum - DELTA` (R108). -/
def indexBackwardRound (n : Nat) (key : Vector Word 4) (sum : Word) (vy : List Word × Word) : List Word × Word :=
  let e := (sum >>> 2) &&& 3
  let (v, y) := indexBackwardWalk key sum (e.setWidth 2) (List.range' 1 (n - 1)).reverse vy
  let z := wordAt v (n - 1)
  let w := wordAt v 0 - mx key z y sum 0 (e.setWidth 2)
  (v.set 0 w, w)

/-- `while sum != 0`, at most `fuel` times (R108). -/
def indexBackwardRounds (n : Nat) (key : Vector Word 4) : Nat → Word → List Word × Word → List Word
  | 0, _, (v, _) => v
  | fuel + 1, sum, vy =>
    if sum = 0 then vy.1
    else indexBackwardRounds n key fuel (sum - delta) (indexBackwardRound n key sum vy)

/-- `unscramble(v, n, K)` by index, its loop allowed `fuel` iterations (R108). -/
def indexUnscramble (fuel n : Nat) (key : Vector Word 4) (v : List Word) : List Word :=
  indexBackwardRounds n key fuel (BitVec.ofNat 32 (6 + 52 / n) * delta) (v, wordAt v 0)

/-! On the ring (R106): word `p` is updated from the words beside it as they stand at that moment. -/

/-- The left neighbour of word `p` of an `n`-word block, `v[(p − 1) mod n]` (R106). -/
def leftNeighbour (n : Nat) (v : List Word) (p : Nat) : Word := wordAt v ((p + n - 1) % n)

/-- The right neighbour of word `p` of an `n`-word block, `v[(p + 1) mod n]` (R106). -/
def rightNeighbour (n : Nat) (v : List Word) (p : Nat) : Word := wordAt v ((p + 1) % n)

/-- The mixing value of word `p` on the ring (R105, R106). -/
def ringMix (n : Nat) (key : Vector Word 4) (sum : Word) (v : List Word) (p : Nat) : Word :=
  mx key (leftNeighbour n v p) (rightNeighbour n v p) sum p (selector sum)

/-- One forward update on the ring. -/
def ringAdd (n : Nat) (key : Vector Word 4) (sum : Word) (v : List Word) (p : Nat) : List Word :=
  v.set p (wordAt v p + ringMix n key sum v p)

/-- One inverse update on the ring. -/
def ringSub (n : Nat) (key : Vector Word 4) (sum : Word) (v : List Word) (p : Nat) : List Word :=
  v.set p (wordAt v p - ringMix n key sum v p)

/-- The sum of round `r`, "r · DELTA mod 2^32" (R107, R115). -/
def roundSum (r : Nat) : Word := BitVec.ofNat 32 r * delta

/-- The forward transform on the ring: in rounds 1 to Q(n), words 0 to n−1 in turn. -/
def ringScramble (n : Nat) (key : Vector Word 4) (v : List Word) : List Word :=
  (List.range (roundCount n)).foldl
    (fun u r => (List.range n).foldl (ringAdd n key (roundSum (r + 1))) u) v

/-- The inverse transform on the ring: in rounds Q(n) down to 1, words n−1 down to 0 in turn. -/
def ringUnscramble (n : Nat) (key : Vector Word 4) (v : List Word) : List Word :=
  (List.range (roundCount n)).reverse.foldl
    (fun u r => (List.range n).reverse.foldl (ringSub n key (roundSum (r + 1))) u) v

end Sys2Proof.Machine
end

