-- ==== Sys2Proof/Machine/Script.lean ====
section
/-! DEFINITION. The host's side: the statements of a host script and what each expands to (R88, R89), a whole stream
handed over chunk by chunk (R156), and the key written as text (R157). -/

namespace Sys2Proof.Machine

/-- A statement of a host script (R88) or one of its pseudo-instructions (R89). -/
inductive Stmt where
  | wr (r : Reg) (v : Word)
  | rd (r : Reg)
  /-- `scramble N`, `unscramble N`, `keyclr`, `encopen`, `decopen`, `chunk L`, `close` -/
  | command (i : Instr)
  | wait
  | loadkey (k0 k1 k2 k3 : Word)
  | loadwords (ws : List Word)
  | loadbytes (bs : List Byte)
  | readblk
  | clrerr
  | ackdone
  deriving DecidableEq, Repr

/-- `loadwords w0, …, w(m−1)`: the writes of BUF[0], BUF[1], … (R89). -/
def loadWords (ws : List Word) : List Access :=
  ws.zipIdx.map fun wi => .write (BitVec.ofNat 8 (0x80 + wi.2)) wi.1

/-- `s ++ 0x00^((4 − len(s) mod 4) mod 4)`: the bytes filled up to whole words (R89). -/
def fillWord (bs : List Byte) : List Byte := bs ++ List.replicate ((4 - bs.length % 4) % 4) 0x00

/-- `loadbytes s` (R89). -/
def loadBytes (bs : List Byte) : List Access := loadWords (wordsOf (fillWord bs))

/-- What a statement expands to (R88, R89). -/
def expand : Stmt → List HostAction
  | .wr r v => [.access (.write (regAddress r) v)]
  | .rd r => [.access (.read (regAddress r))]
  | .command i => [.access (.write 0x03 (encode i))]
  | .wait => [.wait]
  | .loadkey k0 k1 k2 k3 =>
    [.access (.write 0x08 k0), .access (.write 0x09 k1), .access (.write 0x0A k2), .access (.write 0x0B k3)]
  | .loadwords ws => (loadWords ws).map .access
  | .loadbytes bs => (loadBytes bs).map .access
  | .readblk => (List.range 128).map fun i => .access (.read (BitVec.ofNat 8 (0x80 + i)))
  | .clrerr => [.access (.write 0x02 0)]
  | .ackdone => [.access (.write 0x01 0x00000002)]

/-- A host script as the host's actions. -/
def expandAll (p : List Stmt) : List HostAction := p.flatMap expand

/-- The chunks of an input in order: every full 512 bytes, and last the remaining `ℓ mod 512` bytes, which are none
when ℓ is a multiple of 512 (R156). -/
def chunksOf (d : List Byte) : List (List Byte) :=
  (List.range (d.length / 512 + 1)).map (chunkAt d)

/-- One chunk of a stream: its bytes, the CHUNK command, the wait, and a read of OUTLEN and of the block, which is
the output when OUTLEN reads 512 (R155, R156). -/
def chunkStmts (c : List Byte) : List Stmt :=
  [.loadbytes c, .command (.chunk c.length), .wait, .rd .outlen, .readblk]

/-- A whole stream, with ENCOPEN or DECOPEN before it (R156). -/
def streamStmts (opening : Instr) (d : List Byte) : List Stmt :=
  [.command opening, .wait] ++ (chunksOf d).flatMap chunkStmts

/-! The same host without the interleaving: each command is performed before the next access. -/

/-- The next part of a run, where the first part reached a next state. -/
def andThen (o : Host.Outcome State Fault Refusal) (f : State → Host.Outcome State Fault Refusal) :
    Host.Outcome State Fault Refusal :=
  match o with
  | .next s => f s
  | .fault r => .fault r
  | .refused r => .refused r

/-- Bus accesses one after the other. -/
def accessAll : List Access → State → Host.Outcome State Fault Refusal
  | [], s => .next s
  | a :: rest, s => andThen (access a s) (accessAll rest)

/-- A command written to CMD and, after it, the engine sequencer's step. -/
def command (i : Instr) (s : State) : Host.Outcome State Fault Refusal :=
  andThen (access (.write 0x03 (encode i)) s) engineStep

/-- A chunk handed over: its bytes written to BUF, then CHUNK (R156). -/
def handOver (c : List Byte) (s : State) : Host.Outcome State Fault Refusal :=
  andThen (accessAll (loadBytes c) s) (command (.chunk c.length))

/-- The output after a CHUNK: the 512 bytes of BUF when OUTLEN = 512, otherwise nothing (R155). -/
def outputBytes (s : State) : List Byte := if s.outlen = 512 then bytesOf s.buf.toList else []

/-- Chunks handed over in order; the host appends the output of each (R152). -/
def handOverAll : List (List Byte) → State → Option (State × List Byte)
  | [], s => some (s, [])
  | c :: cs, s =>
    match handOver c s with
    | .next t => (handOverAll cs t).map fun r => (r.1, outputBytes t ++ r.2)
    | .fault _ => none
    | .refused _ => none

/-- A whole stream: ENCOPEN or DECOPEN, then the chunks of the input (R156). It answers the state at the end and the
bytes the host wrote out. -/
def streamRun (opening : Instr) (d : List Byte) (s : State) : Option (State × List Byte) :=
  match command opening s with
  | .next t => handOverAll (chunksOf d) t
  | .fault _ => none
  | .refused _ => none

/-! The key as text. -/

/-- A hexadecimal digit, in either case (R157). -/
def hexDigit (c : Char) : Option (BitVec 4) :=
  if '0' ≤ c ∧ c ≤ '9' then some (BitVec.ofNat 4 (c.toNat - '0'.toNat))
  else if 'a' ≤ c ∧ c ≤ 'f' then some (BitVec.ofNat 4 (c.toNat - 'a'.toNat + 10))
  else if 'A' ≤ c ∧ c ≤ 'F' then some (BitVec.ofNat 4 (c.toNat - 'A'.toNat + 10))
  else none

/-- One group of the key text, "most-significant-hex-digit first" (R157). -/
def hexWord (cs : List Char) : Option Word :=
  (cs.mapM hexDigit).map fun ds => ds.foldl (fun w d => (w <<< 4) ||| d.setWidth 32) 0

/-- The key words of a key text, `KEY[i]` from characters 8i..8i+7; any other text is the host's "invalid key" error
(R157). -/
def keyOfText (cs : List Char) : Option (List Word) :=
  if cs.length = 32 then
    (List.range 4).mapM fun i => hexWord ((cs.drop (8 * i)).take 8)
  else none

end Sys2Proof.Machine
end

