-- ==== Sys2Proof/Safety.lean ====
section
/-! DEFINITION. The terms claims are stated in: the invariants of R32 and what acceptance established about a pending
command, the reset values, what stays when nothing of the block changes, and the end of a run. -/

namespace Sys2Proof.Machine

/-- What acceptance checked of a command, which still holds while it is pending (R188, R196). -/
def accepted : Instr → State → Bool
  | .scramble n, s => keyValid s && wordCountOk n
  | .unscramble n, s => keyValid s && wordCountOk n
  | .keyclr, s => !streamOpen s.stream
  | .encopen, s => keyValid s && !streamOpen s.stream
  | .decopen, s => keyValid s && !streamOpen s.stream
  | .chunk l, s => streamOpen s.stream && chunkLengthOk l
  | .close, _ => true

/-- Every register of the block but BUF is at its reset value (the table of R250). -/
structure AtResetValues (s : State) : Prop where
  ie : s.ie = false
  busy : s.busy = false
  done : s.done = false
  stream : s.stream = .idle
  err : s.err = 0x00
  outlen : s.outlen = 0
  blkcnt : s.blkcnt = 0
  key : s.key = Vector.replicate 4 0
  keywr : s.keywr = 0b0000
  pend : s.pend = none

/-- The invariant of the machine. The first four fields are R32; the others say what acceptance left true of a pending
command and that an asserted `rst` holds the block at its reset values. -/
structure Inv (s : State) : Prop where
  /-- R32 (1) -/
  busy_iff_pend : s.busy = true ↔ s.pend ≠ none
  /-- R32 (2) -/
  open_has_key : streamOpen s.stream = true → keyValid s = true
  /-- R32 (3) -/
  outlen_legal : s.outlen = 0 ∨ s.outlen = 512
  /-- R32 (4) -/
  err_legal : s.err.toNat ≤ 6
  /-- R188, R196 -/
  pend_accepted : ∀ i, s.pend = some i → accepted i s = true
  /-- R250, and that it holds during reset as after it: DESIGN CHOICE, safe (notes/assumptions/6.md) -/
  reset_held : s.rst = true → AtResetValues s

/-- Two states agree on every register of the block, the hidden ones and the `rst` input among them: between them only
the port, the host agent and the free values drawn have moved. -/
structure SameBlock (s t : State) : Prop where
  ie : t.ie = s.ie
  busy : t.busy = s.busy
  done : t.done = s.done
  stream : t.stream = s.stream
  err : t.err = s.err
  outlen : t.outlen = s.outlen
  blkcnt : t.blkcnt = s.blkcnt
  key : t.key = s.key
  buf : t.buf = s.buf
  keywr : t.keywr = s.keywr
  pend : t.pend = s.pend
  rst : t.rst = s.rst

/-- STREAM after the completion of a command (the table of R141). -/
def streamAfter : Instr → Stream → Stream
  | .encopen, _ => .enc
  | .decopen, _ => .dec
  | .chunk l, m => if l = blockBytes then m else .ended
  | .close, _ => .idle
  | .scramble _, m => m
  | .unscramble _, m => m
  | .keyclr, m => m

/-- The checks of R220 that a write fails, by error name, whatever their order. `none` as the command is a word that
decodes to no command. -/
def commandFails (c : Option Instr) (s : State) : ErrorName → Bool
  | .busy => s.busy
  | .illegal => c.isNone
  | .nokey =>
    match c with
    | some (.scramble _) => !keyValid s
    | some (.unscramble _) => !keyValid s
    | some .encopen => !keyValid s
    | some .decopen => !keyValid s
    | _ => false
  | .stream =>
    match c with
    | some .encopen => streamOpen s.stream
    | some .decopen => streamOpen s.stream
    | some (.chunk _) => !streamOpen s.stream
    | _ => false
  | .keylock =>
    match c with
    | some .keyclr => streamOpen s.stream
    | _ => false
  | .badarg =>
    match c with
    | some (.scramble n) => decide (n < 2 ∨ 128 < n)
    | some (.unscramble n) => decide (n < 2 ∨ 128 < n)
    | some (.chunk l) => decide (512 < l)
    | _ => false

/-- The end of a host program's run: "the host issues no further access and PEND = empty" (R259). -/
def Ended (s : State) : Prop := s.script = [] ∧ s.pend = none

/-- What a host observes of a run: "the sequence of values the host's reads returned", in order (R259). -/
def observed (s : State) : List Word := s.reads.reverse

/-- The premises R259 asks of a claim about an output stream, on the state it starts from: nothing pending, the key
valid, no stream open, `rst` released, and no error recorded. -/
structure StreamReady (s : State) : Prop where
  rst : s.rst = false
  busy : s.busy = false
  pend : s.pend = none
  closed : streamOpen s.stream = false
  key : keyValid s = true
  err : s.err = 0x00

end Sys2Proof.Machine
end

