-- ==== Sys2Proof/Certificates/Slice0/Obligations.lean ====
section
/-! DEFINITION. The statements about the model, for the provers. Each docstring names the rule it states. A statement
that mentions a free value (`Config.busyRead`, `Config.resetRead`, `drawBlock`) holds whatever the value is. -/

open Sys2Proof Sys2Proof.Machine

/-! Encoding. -/

/-- R80, R81, R86: no bit of an encoding is dropped. -/
def Obligations.DecodeOfEncodeIsTheCommand : Prop :=
  ∀ i : Instr, i.wellFormed = true → decode (encode i) = .ok i

/-- R86: each command has one word, and every decoded command is well formed. -/
def Obligations.EncodeOfDecodeIsTheWord : Prop :=
  ∀ (w : Word) (i : Instr), decode w = .ok i → i.wellFormed = true ∧ encode i = w

/-- R87: the table (match, mask) and "The encoding of a command with operand a is match | (a << 16)", with the rule's
six examples. -/
def Obligations.EncodingIsMatchAndShiftedOperand : Prop :=
  (∀ a < 1024,
    encode (.scramble a) = 0x00000001 ||| (BitVec.ofNat 32 a <<< 16) ∧
    encode (.unscramble a) = 0x00000002 ||| (BitVec.ofNat 32 a <<< 16) ∧
    encode (.chunk a) = 0x00000006 ||| (BitVec.ofNat 32 a <<< 16)) ∧
  encode .keyclr = 0x00000003 ∧ encode .encopen = 0x00000004 ∧
  encode .decopen = 0x00000005 ∧ encode .close = 0x00000007 ∧
  (∀ w : Word,
    (w &&& 0xFC00FFFF = 0x00000001 ↔ ∃ a < 1024, w = encode (.scramble a)) ∧
    (w &&& 0xFC00FFFF = 0x00000002 ↔ ∃ a < 1024, w = encode (.unscramble a)) ∧
    (w &&& 0xFC00FFFF = 0x00000006 ↔ ∃ a < 1024, w = encode (.chunk a)) ∧
    (w &&& 0xFFFFFFFF = 0x00000003 ↔ w = encode .keyclr) ∧
    (w &&& 0xFFFFFFFF = 0x00000004 ↔ w = encode .encopen) ∧
    (w &&& 0xFFFFFFFF = 0x00000005 ↔ w = encode .decopen) ∧
    (w &&& 0xFFFFFFFF = 0x00000007 ↔ w = encode .close)) ∧
  encode (.scramble 128) = 0x00800001 ∧ encode (.unscramble 128) = 0x00800002 ∧
  encode (.chunk 512) = 0x02000006 ∧ encode (.chunk 500) = 0x01F40006 ∧
  encode (.chunk 0) = 0x00000006 ∧ encode (.scramble 2) = 0x00020001

/-- R81, R86, R87: a word decodes to a command exactly when it matches a row of the opcode table, and the row it
matches is the command's and no other. -/
def Obligations.DecoderAcceptsExactlyTheOpcodeTable : Prop :=
  ∀ w : Word,
    ((∃ i, decode w = .ok i) ↔ ∃ r ∈ opcodeRows, rowMatches r w = true) ∧
    (∀ i, decode w = .ok i → ∀ r ∈ opcodeRows, (rowMatches r w = true ↔ r.mnemonic = mnemonicOf i))

/-- R83, R84: a word with a reserved bit set or a reserved OP is rejected with ILLEGAL, or with BUSY while a command
is pending, and has no other effect. -/
def Obligations.ReservedWordsAreRejected : Prop :=
  ∀ (w : Word) (s : State), s.rst = false →
    (rsv0Field w ≠ 0 ∨ rsv1Field w ≠ 0 ∨ opField w = 0x0 ∨ 0x8 ≤ (opField w).toNat) →
    access (.write 0x03 w) s =
      .next (recordError (if s.busy then .busy else .illegal) { s with bus := some (.write 0x03 w) })

/-- R85: a non-zero ARG where none is taken is ILLEGAL; an ARG out of range is BADARG, after every other check. -/
def Obligations.ArgumentsOutOfPlaceAreRejected : Prop :=
  ∀ (w : Word) (s : State), s.rst = false → s.busy = false → rsv0Field w = 0 → rsv1Field w = 0 →
    ((opField w = 0x3 ∨ opField w = 0x4 ∨ opField w = 0x5 ∨ opField w = 0x7) → argField w ≠ 0 →
      access (.write 0x03 w) s = .next (recordError .illegal { s with bus := some (.write 0x03 w) })) ∧
    ((opField w = 0x1 ∨ opField w = 0x2) → (argField w < 2 ∨ 128 < argField w) →
      access (.write 0x03 w) s =
        .next (recordError (if keyValid s then .badarg else .nokey) { s with bus := some (.write 0x03 w) })) ∧
    (opField w = 0x6 → 512 < argField w →
      access (.write 0x03 w) s =
        .next (recordError (if streamOpen s.stream then .badarg else .stream)
          { s with bus := some (.write 0x03 w) }))

/-- R87: words written out from the table of encodings decode to the commands they stand for. -/
def Obligations.SampleWordsDecode : Prop :=
  decode 0b00000000100000000000000000000001 = .ok (.scramble 128) ∧
  decode 0b00000011111111110000000000000010 = .ok (.unscramble 1023) ∧
  decode 0b00000000000000000000000000000011 = .ok .keyclr ∧
  decode 0b00000000000000000000000000000100 = .ok .encopen ∧
  decode 0b00000000000000000000000000000101 = .ok .decopen ∧
  decode 0b00000001111101000000000000000110 = .ok (.chunk 500) ∧
  decode 0b00000000000000000000000000000111 = .ok .close

/-! The step. That `exec` is a command's acceptance with an access on the port, and its completion with none, is the
model's choice, here and in the statements of the commands (notes/assumptions/1.md). -/

/-- R67, R188: on the host's turn the step is the access the host makes next, with the action and the turn used up;
where that is a write to CMD of a word that decodes to a command, it is `exec` of that command, with the write on the
port. -/
def Obligations.StepRunsTheCommandWritten : Prop :=
  (∀ (s : State) (a : Access) (rest : List HostAction),
    nextTurn s = .host → s.script = .access a :: rest →
    step s = access a { s with schedule := s.schedule.tail, script := rest }) ∧
  (∀ (s : State) (w : Word) (rest : List HostAction) (i : Instr),
    nextTurn s = .host → s.rst = false → s.script = .access (.write 0x03 w) :: rest → decode w = .ok i →
    step s = exec i { s with schedule := s.schedule.tail, script := rest, bus := some (.write 0x03 w) })

/-- R196: on the engine sequencer's turn the step is `exec` of the pending command, with nothing on the port and the
turn used up. -/
def Obligations.StepPerformsThePendingCommand : Prop :=
  ∀ (s : State) (i : Instr), nextTurn s = .engine → s.rst = false → s.pend = some i →
    step s = exec i { s with schedule := s.schedule.tail, bus := none }

/-- The state `withFetchWord` makes is one whose next step runs the encoded command, for every command
(notes/assumptions/3.md: how a program comes to run). -/
def Obligations.FetchWordStepRunsTheCommand : Prop :=
  ∀ (s : State) (i : Instr), i.wellFormed = true →
    step (s.withFetchWord 32 (encode i).toNat) =
      exec i { s with rst := false, bus := some (.write 0x03 (encode i)) }

/-! The cipher. -/

/-- R105, R104: the mixing value, with the key word `KEY[(p & 3) xor e]`, and the rule's worked example. -/
def Obligations.MixingValue : Prop :=
  (∀ (key : Vector Word 4) (z y sum : Word) (p : Nat) (e : BitVec 2),
    mx key z y sum p e =
      (((z >>> 5) ^^^ (y <<< 2)) + ((y >>> 3) ^^^ (z <<< 4))) ^^^
        ((sum ^^^ y) + ((key.toList.getD ((p &&& 3) ^^^ e.toNat) 0) ^^^ z))) ∧
  (∀ (p : Nat) (e : BitVec 2), (p &&& 3) ^^^ e.toNat < 4) ∧
  mx (Vector.replicate 4 0) 0 0 0x9E3779B9 0 2 = 0x9E3779B9

/-- R101, R102, R103: the round constant, the number of rounds with the rule's table of values, and the selector. -/
def Obligations.ScheduleOfRounds : Prop :=
  delta = 0x9E3779B9 ∧
  (∀ n, 2 ≤ n → roundCount n = 6 + 52 / n) ∧
  roundCount 2 = 32 ∧ roundCount 3 = 23 ∧ roundCount 4 = 19 ∧ roundCount 5 = 16 ∧ roundCount 6 = 14 ∧
  roundCount 7 = 13 ∧ roundCount 8 = 12 ∧
  (∀ n, 9 ≤ n → n ≤ 10 → roundCount n = 11) ∧ (∀ n, 11 ≤ n → n ≤ 13 → roundCount n = 10) ∧
  (∀ n, 14 ≤ n → n ≤ 17 → roundCount n = 9) ∧ (∀ n, 18 ≤ n → n ≤ 26 → roundCount n = 8) ∧
  (∀ n, 27 ≤ n → n ≤ 52 → roundCount n = 7) ∧ (∀ n, 53 ≤ n → n ≤ 128 → roundCount n = 6) ∧
  (∀ sum : Word, (selector sum).setWidth 32 = (sum >>> 2) &&& 3)

/-- R107: the forward transform is the rule's pseudocode, read by index, on every block of two words or more; it
rewrites those words and makes no others; and the rule's worked example. -/
def Obligations.ScrambleIsThePseudocode : Prop :=
  (∀ (n : Nat) (key : Vector Word 4) (v : List Word), 2 ≤ n → v.length = n →
    scramble n key v = indexScramble n key v ∧ (scramble n key v).length = n) ∧
  scramble 2 (Vector.replicate 4 0) [0x00000000, 0x00000000] = [0x053704ab, 0x575d8c80]

/-- R108: the inverse transform is the rule's pseudocode, read by index, however often its loop is allowed to run from
Q(n) times up; it rewrites the block's words and makes no others; and the rule's worked example. -/
def Obligations.UnscrambleIsThePseudocode : Prop :=
  (∀ (fuel n : Nat) (key : Vector Word 4) (v : List Word), 2 ≤ n → v.length = n → roundCount n ≤ fuel →
    unscramble n key v = indexUnscramble fuel n key v ∧ (unscramble n key v).length = n) ∧
  unscramble 2 (Vector.replicate 4 0) [0x053704ab, 0x575d8c80] = [0x00000000, 0x00000000]

/-- R106: both transforms update each word from its circular neighbours as they stand at that moment; for two words
both neighbours of a word are the same word. -/
def Obligations.NeighboursAreCircular : Prop :=
  (∀ (n : Nat) (key : Vector Word 4) (v : List Word), 2 ≤ n → v.length = n →
    scramble n key v = ringScramble n key v ∧ unscramble n key v = ringUnscramble n key v) ∧
  (∀ (v : List Word) (p : Nat), p < 2 → leftNeighbour 2 v p = rightNeighbour 2 v p)

/-- R110: the inverse property. -/
def Obligations.UnscrambleInvertsScramble : Prop :=
  ∀ (n : Nat) (key : Vector Word 4) (v : List Word), 2 ≤ n → v.length = n →
    unscramble n key (scramble n key v) = v

/-- R113 (corner cases): "UNSCRAMBLE N then SCRAMBLE N also restores the block". -/
def Obligations.ScrambleInvertsUnscramble : Prop :=
  ∀ (n : Nat) (key : Vector Word 4) (v : List Word), 2 ≤ n → v.length = n →
    scramble n key (unscramble n key v) = v

/-- R111: `k` iterations of the inverse loop are `k` rounds and take the sum to `(q − k)·DELTA`, which is 0 only when
`k = q`; so the loop runs exactly `q = Q(n)` times, however much oftener it may, with the sums `q·DELTA` down to
`1·DELTA`. -/
def Obligations.InverseLoopRunsQTimes : Prop :=
  ∀ n, 2 ≤ n →
    (∀ k, k ≤ roundCount n →
      startSum n - BitVec.ofNat 32 k * delta = BitVec.ofNat 32 (roundCount n - k) * delta ∧
      (startSum n - BitVec.ofNat 32 k * delta = 0 ↔ k = roundCount n) ∧
      ∀ (key : Vector Word 4) (fuel : Nat) (vy : List Word × Word),
        backwardRounds n key (k + fuel) (startSum n) vy =
          backwardRounds n key fuel (startSum n - BitVec.ofNat 32 k * delta)
            ((List.range k).foldl
              (fun u j => backwardRound n key (BitVec.ofNat 32 (roundCount n - j) * delta) u) vy)) ∧
    (∀ (key : Vector Word 4) (fuel : Nat) (vy : List Word × Word), roundCount n ≤ fuel →
      backwardRounds n key fuel (startSum n) vy =
        ((List.range (roundCount n)).foldl
          (fun u j => backwardRound n key (BitVec.ofNat 32 (roundCount n - j) * delta) u) vy).1)

/-! The commands: acceptance, completion, and with the whole next state their frame. -/

/-- R188: a write to CMD rejects or starts the command, by the rule's checks in the rule's order. -/
def Obligations.CommandAcceptance : Prop :=
  ∀ (w : Word) (s : State), s.rst = false →
    let p := { s with bus := some (.write 0x03 w) }
    let reject := fun e => Host.Outcome.next (φ := Fault) (ρ := Refusal) (recordError e p)
    let started := fun i =>
      Host.Outcome.next (φ := Fault) (ρ := Refusal) { p with pend := some i, busy := true, done := false }
    access (.write 0x03 w) s =
      if s.busy then reject .busy
      else match decode w with
        | .error _ => reject .illegal
        | .ok (.scramble n) =>
          if keyValid s = false then reject .nokey
          else if n < 2 ∨ 128 < n then reject .badarg else started (.scramble n)
        | .ok (.unscramble n) =>
          if keyValid s = false then reject .nokey
          else if n < 2 ∨ 128 < n then reject .badarg else started (.unscramble n)
        | .ok .keyclr =>
          if s.stream = .enc ∨ s.stream = .dec then reject .keylock else started .keyclr
        | .ok .encopen =>
          if keyValid s = false then reject .nokey
          else if s.stream = .enc ∨ s.stream = .dec then reject .stream else started .encopen
        | .ok .decopen =>
          if keyValid s = false then reject .nokey
          else if s.stream = .enc ∨ s.stream = .dec then reject .stream else started .decopen
        | .ok (.chunk l) =>
          if s.stream = .idle ∨ s.stream = .ended then reject .stream
          else if 512 < l then reject .badarg else started (.chunk l)
        | .ok .close => started .close

/-- R223: a write that is rejected reports the failing check with the lowest code, and a write that fails none is not
rejected: CMD, then KEY[i], then BUF[i]. -/
def Obligations.LowestErrorCodeIsReported : Prop :=
  ∀ s : State, s.rst = false → s.err = 0x00 →
    (∀ (w : Word) (e : ErrorName),
      let c := (match decode w with | .ok i => some i | .error _ => none)
      (access (.write 0x03 w) s = .next { s with bus := some (.write 0x03 w), err := errorCode e } ↔
        commandFails c s e = true ∧
          ∀ e', commandFails c s e' = true → (errorCode e).toNat ≤ (errorCode e').toNat)) ∧
    (∀ (i : Fin 4) (v : Word) (e : ErrorName),
      (access (.write (regAddress (.key i)) v) s =
          .next { s with bus := some (.write (regAddress (.key i)) v), err := errorCode e } ↔
        (e = .busy ∧ s.busy = true) ∨ (e = .keylock ∧ s.busy = false ∧ streamOpen s.stream = true))) ∧
    (∀ (i : Fin 128) (v : Word) (e : ErrorName),
      (access (.write (regAddress (.buf i)) v) s =
          .next { s with bus := some (.write (regAddress (.buf i)) v), err := errorCode e } ↔
        (e = .busy ∧ s.busy = true)))

/-- SCRAMBLE N (R112): acceptance while an access is on the port; completion otherwise, with the words of BUF from N on
and every other register unchanged. -/
def Obligations.ScrambleCommand : Prop :=
  ∀ (n : Nat) (s : State),
    (s.bus ≠ none →
      exec (.scramble n) s = .next
        (if s.busy then recordError .busy s
         else if keyValid s = false then recordError .nokey s
         else if n < 2 ∨ 128 < n then recordError .badarg s
         else { s with pend := some (.scramble n), busy := true, done := false })) ∧
    (s.bus = none → 2 ≤ n → n ≤ 128 →
      ∃ b : Vector Word 128,
        exec (.scramble n) s = .next { s with buf := b, pend := none, busy := false, done := true } ∧
        b.toList = scramble n s.key (s.buf.toList.take n) ++ s.buf.toList.drop n)

/-- UNSCRAMBLE N (R113), as SCRAMBLE N. -/
def Obligations.UnscrambleCommand : Prop :=
  ∀ (n : Nat) (s : State),
    (s.bus ≠ none →
      exec (.unscramble n) s = .next
        (if s.busy then recordError .busy s
         else if keyValid s = false then recordError .nokey s
         else if n < 2 ∨ 128 < n then recordError .badarg s
         else { s with pend := some (.unscramble n), busy := true, done := false })) ∧
    (s.bus = none → 2 ≤ n → n ≤ 128 →
      ∃ b : Vector Word 128,
        exec (.unscramble n) s = .next { s with buf := b, pend := none, busy := false, done := true } ∧
        b.toList = unscramble n s.key (s.buf.toList.take n) ++ s.buf.toList.drop n)

/-- KEYCLR (R197): acceptance; completion, which clears the key and its validity and changes nothing else. -/
def Obligations.KeyclrCommand : Prop :=
  ∀ s : State,
    (s.bus ≠ none →
      exec .keyclr s = .next
        (if s.busy then recordError .busy s
         else if s.stream = .enc ∨ s.stream = .dec then recordError .keylock s
         else { s with pend := some .keyclr, busy := true, done := false })) ∧
    (s.bus = none →
      ∃ t, exec .keyclr s = .next t ∧
        t = { s with key := t.key, keywr := 0b0000, pend := none, busy := false, done := true } ∧
        (∀ i : Fin 4, t.key[i] = 0x00000000) ∧ keyValid t = false)

/-- ENCOPEN (R142) and DECOPEN (R143): acceptance; completion, which opens the stream, clears OUTLEN and BLKCNT and
changes nothing else. -/
def Obligations.OpenCommands : Prop :=
  ∀ s : State, ∀ im ∈ [(Instr.encopen, Stream.enc), (Instr.decopen, Stream.dec)],
    (s.bus ≠ none →
      exec im.1 s = .next
        (if s.busy then recordError .busy s
         else if keyValid s = false then recordError .nokey s
         else if s.stream = .enc ∨ s.stream = .dec then recordError .stream s
         else { s with pend := some im.1, busy := true, done := false })) ∧
    (s.bus = none →
      exec im.1 s = .next
        { s with stream := im.2, outlen := 0, blkcnt := 0, pend := none, busy := false, done := true })

/-- CHUNK L (R144): acceptance. -/
def Obligations.ChunkAcceptance : Prop :=
  ∀ (l : Nat) (s : State), s.bus ≠ none →
    exec (.chunk l) s = .next
      (if s.busy then recordError .busy s
       else if s.stream = .idle ∨ s.stream = .ended then recordError .stream s
       else if 512 < l then recordError .badarg s
       else { s with pend := some (.chunk l), busy := true, done := false })

/-- R145: CHUNK 512 in an encrypt stream; nothing else changes. -/
def Obligations.EncryptFullChunk : Prop :=
  ∀ s : State, s.bus = none → s.stream = .enc →
    ∃ b : Vector Word 128,
      exec (.chunk 512) s = .next
        { s with buf := b, outlen := 512, blkcnt := s.blkcnt + 1, pend := none, busy := false, done := true } ∧
      b.toList = scramble 128 s.key s.buf.toList

/-- R146: CHUNK L with 0 < L < 512 in an encrypt stream: bytes L..511 become 0x30, then the block is scrambled; nothing
else changes. -/
def Obligations.EncryptShortChunk : Prop :=
  ∀ (l : Nat) (s : State), s.bus = none → s.stream = .enc → 0 < l → l < 512 →
    ∃ (padded : List Word) (b : Vector Word 128),
      exec (.chunk l) s = .next
        { s with
          buf := b, outlen := 512, blkcnt := s.blkcnt + 1, stream := .ended
          pend := none, busy := false, done := true } ∧
      b.toList = scramble 128 s.key padded ∧ padded.length = 128 ∧
      ∀ j < 512, blockByte padded j = if j < l then blockByte s.buf.toList j else 0x30

/-- R147: CHUNK 0 in an encrypt stream outputs nothing and ends the stream; BUF, BLKCNT and all else unchanged. -/
def Obligations.EncryptEmptyChunk : Prop :=
  ∀ s : State, s.bus = none → s.stream = .enc →
    exec (.chunk 0) s = .next
      { s with outlen := 0, stream := .ended, pend := none, busy := false, done := true }

/-- R148: CHUNK 512 in a decrypt stream; nothing else changes. -/
def Obligations.DecryptFullChunk : Prop :=
  ∀ s : State, s.bus = none → s.stream = .dec →
    ∃ b : Vector Word 128,
      exec (.chunk 512) s = .next
        { s with buf := b, outlen := 512, blkcnt := s.blkcnt + 1, pend := none, busy := false, done := true } ∧
      b.toList = unscramble 128 s.key s.buf.toList

/-- R149: CHUNK L with L < 512, 0 included, in a decrypt stream discards the chunk and ends the stream; BUF, BLKCNT,
ERR and all else unchanged. -/
def Obligations.DecryptShortChunk : Prop :=
  ∀ (l : Nat) (s : State), s.bus = none → s.stream = .dec → l < 512 →
    exec (.chunk l) s = .next
      { s with outlen := 0, stream := .ended, pend := none, busy := false, done := true }

/-- CLOSE (R151): acceptance in every stream state; completion, which changes STREAM and nothing else. -/
def Obligations.CloseCommand : Prop :=
  ∀ s : State,
    (s.bus ≠ none →
      exec .close s = .next
        (if s.busy then recordError .busy s
         else { s with pend := some .close, busy := true, done := false })) ∧
    (s.bus = none →
      exec .close s = .next { s with stream := .idle, pend := none, busy := false, done := true })

/-- A command performed on a state that does not have what acceptance checked of it stops: the spec gives no effect
there, and no run from reset reaches it. The stop is the model's choice (notes/assumptions/8.md). -/
def Obligations.UnacceptedCommandsStop : Prop :=
  ∀ s : State, s.bus = none →
    (∀ n, n < 2 ∨ 128 < n →
      exec (.scramble n) s = .fault .wordCountOutOfRange ∧ exec (.unscramble n) s = .fault .wordCountOutOfRange) ∧
    (∀ l, 512 < l → exec (.chunk l) s = .fault .chunkTooLong) ∧
    (∀ l, l ≤ 512 → s.stream = .idle ∨ s.stream = .ended → exec (.chunk l) s = .fault .chunkOutsideStream)

/-- R141: the table of stream states, over every step: a completion moves STREAM as the table says, a reset makes it
IDLE, no other step moves it; and the commands that are not in the table for a state are rejected there. -/
def Obligations.StreamMovesByTheTable : Prop :=
  (∀ s t : State, step s = .next t →
    t.stream =
      match nextTurn s, s.rst, s.pend, s.script with
      | .engine, false, some i, _ => streamAfter i s.stream
      | .host, _, _, .rst true :: _ => .idle
      | _, _, _, _ => s.stream) ∧
  (∀ s : State, s.bus ≠ none → s.busy = false →
    (keyValid s = true → s.stream = .enc ∨ s.stream = .dec →
      exec .encopen s = .next (recordError .stream s) ∧ exec .decopen s = .next (recordError .stream s)) ∧
    (s.stream = .idle ∨ s.stream = .ended → ∀ l, exec (.chunk l) s = .next (recordError .stream s)) ∧
    (s.stream = .enc ∨ s.stream = .dec → exec .keyclr s = .next (recordError .keylock s)))

/-- R199: over every step, what may have changed a register that differs afterwards. -/
def Obligations.FrameOfEveryStep : Prop :=
  ∀ s t : State, step s = .next t →
    let completes := fun i => nextTurn s = .engine ∧ s.rst = false ∧ s.pend = some i
    let resets := nextTurn s = .host ∧ ∃ rest, s.script = .rst true :: rest
    let writes := fun r v =>
      nextTurn s = .host ∧ s.rst = false ∧
        ∃ wa rest, s.script = .access (.write wa v) :: rest ∧ regAt wa = r
    ((t.outlen ≠ s.outlen ∨ t.blkcnt ≠ s.blkcnt) →
      completes .encopen ∨ completes .decopen ∨ (∃ l, completes (.chunk l)) ∨ resets) ∧
    (t.stream ≠ s.stream →
      completes .encopen ∨ completes .decopen ∨ (∃ l, completes (.chunk l)) ∨ completes .close ∨ resets) ∧
    (t.key ≠ s.key → (∃ i v, writes (.key i) v) ∨ completes .keyclr ∨ resets) ∧
    (t.buf ≠ s.buf →
      (∃ i v, writes (.buf i) v) ∨ (∃ n, completes (.scramble n) ∨ completes (.unscramble n)) ∨
        (∃ l, completes (.chunk l)) ∨ resets)

/-! Bytes and streams. -/

/-- R150: padding, byte by byte; what stood in bytes L..511 never reaches the result; in the word that holds byte L the
bytes below keep their values, and every later word is 0x30303030. -/
def Obligations.PaddingOfAChunk : Prop :=
  ∀ (l : Nat) (v : List Word), 0 < l → l < 512 → v.length = 128 →
    (pad l v).length = 128 ∧
    (∀ j < 512, blockByte (pad l v) j = if j < l then blockByte v j else 0x30) ∧
    (∀ i, l / 4 < i → i < 128 → wordAt (pad l v) i = 0x30303030) ∧
    (∀ u : List Word, u.length = 128 → (∀ j < l, blockByte u j = blockByte v j) → pad l u = pad l v)

/-- R62: the byte view of the block. -/
def Obligations.ByteViewOfTheBlock : Prop :=
  (∀ (v : List Word) (j : Nat), blockByte v j = (wordAt v (j / 4)).extractLsb' (8 * (j % 4)) 8) ∧
  (∀ (v : List Word) (j k : Nat) (c : Byte), j < 4 * v.length →
    blockByte (setBlockByte v j c) k = if k = j then c else blockByte v k) ∧
  (∀ (s : List Byte) (n i : Nat), s.length = 4 * n → i < n →
    wordAt (wordsOf s) i =
      (s.getD (4 * i) 0).setWidth 32 ||| ((s.getD (4 * i + 1) 0).setWidth 32 <<< 8) |||
        ((s.getD (4 * i + 2) 0).setWidth 32 <<< 16) ||| ((s.getD (4 * i + 3) 0).setWidth 32 <<< 24)) ∧
  (∀ ws : List Word, (bytesOf ws).length = 4 * ws.length ∧
    ∀ i < ws.length, ∀ k < 4, (bytesOf ws).getD (4 * i + k) 0 = (wordAt ws i).extractLsb' (8 * k) 8) ∧
  (∀ ws : List Word, wordsOf (bytesOf ws) = ws) ∧
  (∀ (s : List Byte) (n : Nat), s.length = 4 * n → bytesOf (wordsOf s) = s)

/-- R155, R145, R146, R148: the block a completed CHUNK outputs is the chunk, padded where it is short, encrypted or
decrypted as a byte sequence. -/
def Obligations.ChunkOutputIsTheChunkTransformed : Prop :=
  ∀ (l : Nat) (s t : State), s.bus = none → exec (.chunk l) s = .next t → t.outlen = 512 →
    outputBytes t =
      if s.stream = .enc then encryptChunk s.key ((bytesOf s.buf.toList).take l)
      else decryptChunk s.key ((bytesOf s.buf.toList).take l)

/-- R152: a host that opens an encrypt stream and hands over an input chunk by chunk (R156) writes out exactly
`EncryptStream(K, D)`, and the stream ends; the result's length is `512 · ceil(ℓ/512)`. The host is `streamRun`, which
has each command performed before its next access and takes the output from BUF as it stands: the model's choice
(notes/assumptions/14.md). -/
def Obligations.EncryptStreamIsWhatTheHostWrites : Prop :=
  (∀ (d : List Byte) (s : State), StreamReady s →
    ∃ t, streamRun .encopen d s = some (t, encryptStream s.key d) ∧
      t.stream = .ended ∧ t.err = 0x00 ∧ t.key = s.key ∧ t.busy = false ∧
      t.blkcnt = BitVec.ofNat 32 ((d.length + 511) / 512)) ∧
  (∀ (key : Vector Word 4) (d : List Byte),
    (encryptStream key d).length = 512 * ((d.length + 511) / 512)) ∧
  (∀ key : Vector Word 4, encryptStream key [] = [])

/-- R153: the same of a decrypt stream and `DecryptStream(K, D)`: the trailing `ℓ mod 512` bytes are ignored and no
error is raised. The host is again `streamRun`, the model's choice (notes/assumptions/14.md). -/
def Obligations.DecryptStreamIsWhatTheHostWrites : Prop :=
  (∀ (d : List Byte) (s : State), StreamReady s →
    ∃ t, streamRun .decopen d s = some (t, decryptStream s.key d) ∧
      t.stream = .ended ∧ t.err = 0x00 ∧ t.key = s.key ∧ t.busy = false ∧
      t.blkcnt = BitVec.ofNat 32 (d.length / 512)) ∧
  (∀ (key : Vector Word 4) (d : List Byte),
    (decryptStream key d).length = 512 * (d.length / 512) ∧
    decryptStream key d = decryptStream key (d.take (512 * (d.length / 512))))

/-- R154: the round trip with padding, which gives the input back exactly when its length is a multiple of 512; equal
full blocks of plaintext give equal blocks of ciphertext. -/
def Obligations.StreamRoundTrip : Prop :=
  ∀ (key : Vector Word 4) (d : List Byte),
    decryptStream key (encryptStream key d) =
      d ++ List.replicate ((512 - d.length % 512) % 512) 0x30 ∧
    (decryptStream key (encryptStream key d) = d ↔ d.length % 512 = 0) ∧
    (∀ i j, 512 * (i + 1) ≤ d.length → 512 * (j + 1) ≤ d.length → chunkAt d i = chunkAt d j →
      chunkAt (encryptStream key d) i = chunkAt (encryptStream key d) j)

/-- R114 on the machine: what SCRAMBLE and UNSCRAMBLE leave in BUF[0..N−1] depends on those words and the key alone. -/
def Obligations.EqualInputsGiveEqualOutputs : Prop :=
  ∀ (n : Nat) (s s' : State), 2 ≤ n → n ≤ 128 → s.bus = none → s'.bus = none → s.key = s'.key →
    s.buf.toList.take n = s'.buf.toList.take n →
    ∀ i ∈ [Instr.scramble n, Instr.unscramble n],
      ∃ t t', exec i s = .next t ∧ exec i s' = .next t' ∧ t.buf.toList.take n = t'.buf.toList.take n

/-! Register accesses. -/

/-- R181, R183, R185, R187: what CTRL, STATUS, ERR and CMD read as, with no side effect; the read is answered in every
state. -/
def Obligations.ControlRegisterReads : Prop :=
  ∀ s : State, s.rst = false →
    (∀ wa v, (wa, v) ∈
        [((0x00 : BitVec 8), if s.ie then (1 : Word) else 0),
         (0x01, (if s.busy then 1 else 0) ||| (if s.done then 2 else 0) ||| (if keyValid s then 4 else 0)
            ||| ((streamBits s.stream).setWidth 32 <<< 4)),
         (0x02, s.err.setWidth 32), (0x03, 0)] →
      access (.read wa) s = .next { s with bus := some (.read wa), reads := v :: s.reads }) ∧
    streamBits .idle = 0 ∧ streamBits .enc = 1 ∧ streamBits .dec = 2 ∧ streamBits .ended = 3

/-- R182, R184, R186: what writes to CTRL, STATUS and ERR do, in every state, BUSY included. -/
def Obligations.ControlRegisterWrites : Prop :=
  ∀ (s : State) (v : Word), s.rst = false →
    access (.write 0x00 v) s = .next { s with bus := some (.write 0x00 v), ie := v.getLsbD 0 } ∧
    access (.write 0x01 v) s =
      .next { s with bus := some (.write 0x01 v), done := if v.getLsbD 1 then false else s.done } ∧
    access (.write 0x02 v) s = .next { s with bus := some (.write 0x02 v), err := 0x00 }

/-- R189, R190: OUTLEN and BLKCNT read as they are, and writes to them are ignored. -/
def Obligations.OutlenAndBlkcntAreReadOnly : Prop :=
  ∀ (s : State) (v : Word), s.rst = false →
    access (.read 0x04) s =
      .next { s with bus := some (.read 0x04), reads := s.outlen.setWidth 32 :: s.reads } ∧
    access (.read 0x05) s = .next { s with bus := some (.read 0x05), reads := s.blkcnt :: s.reads } ∧
    access (.write 0x04 v) s = .next { s with bus := some (.write 0x04 v) } ∧
    access (.write 0x05 v) s = .next { s with bus := some (.write 0x05 v) }

/-- R191, R192: reads and writes of KEY[i]; a write is refused with BUSY, then KEYLOCK; one that is accepted sets
KEYWR[i], and KEYV is 1 exactly when all four bits are set (R28). -/
def Obligations.KeyRegisterAccess : Prop :=
  ∀ (s : State) (i : Fin 4) (v : Word), s.rst = false →
    let wa := BitVec.ofNat 8 (0x08 + i.val)
    let p := { s with bus := some (.write wa v) }
    access (.read wa) s = .next { s with bus := some (.read wa), reads := s.key[i] :: s.reads } ∧
    (s.busy = true → access (.write wa v) s = .next (recordError .busy p)) ∧
    (s.busy = false → s.stream = .enc ∨ s.stream = .dec →
      access (.write wa v) s = .next (recordError .keylock p)) ∧
    (s.busy = false → s.stream = .idle ∨ s.stream = .ended →
      ∃ t, access (.write wa v) s = .next t ∧ t = { p with key := t.key, keywr := t.keywr } ∧
        (∀ j : Fin 4, t.key[j] = if j = i then v else s.key[j]) ∧
        (∀ j : Fin 4, t.keywr.getLsbD j.val = (decide (j = i) || s.keywr.getLsbD j.val)) ∧
        (keyValid t = true ↔ ∀ j : Fin 4, j ≠ i → s.keywr.getLsbD j.val = true))

/-- R193, R194: reads and writes of BUF[i]; while BUSY = 1 a write is refused, and a read returns a fresh free value,
in the model's form of that (the model's choice, notes/assumptions/5.md). -/
def Obligations.BlockRegisterAccess : Prop :=
  ∀ (s : State) (i : Fin 128) (v : Word), s.rst = false →
    let wa := BitVec.ofNat 8 (0x80 + i.val)
    let p := { s with bus := some (.write wa v) }
    (s.busy = false →
      access (.read wa) s = .next { s with bus := some (.read wa), reads := s.buf[i] :: s.reads }) ∧
    (s.busy = true →
      access (.read wa) s = .next
        { s with bus := some (.read wa), reads := Config.busyRead s.draws :: s.reads, draws := s.draws + 1 }) ∧
    (s.busy = true → access (.write wa v) s = .next (recordError .busy p)) ∧
    (s.busy = false →
      ∃ t, access (.write wa v) s = .next t ∧ t = { p with buf := t.buf } ∧
        ∀ j : Fin 128, t.buf[j] = if j = i then v else s.buf[j])

/-- R195: unmapped words read as zero and ignore writes, in every state. -/
def Obligations.UnmappedWordsAreInert : Prop :=
  ∀ (s : State) (wa : BitVec 8) (v : Word), s.rst = false →
    (0x06 ≤ wa.toNat ∧ wa.toNat ≤ 0x07) ∨ (0x0C ≤ wa.toNat ∧ wa.toNat ≤ 0x7F) →
    access (.read wa) s = .next { s with bus := some (.read wa), reads := 0x00000000 :: s.reads } ∧
    access (.write wa v) s = .next { s with bus := some (.write wa v) }

/-- R61: the address map. -/
def Obligations.AddressMap : Prop :=
  regAt 0x00 = .ctrl ∧ regAt 0x01 = .status ∧ regAt 0x02 = .err ∧ regAt 0x03 = .cmd ∧
  regAt 0x04 = .outlen ∧ regAt 0x05 = .blkcnt ∧
  (∀ i : Fin 4, regAt (BitVec.ofNat 8 (0x08 + i.val)) = .key i) ∧
  (∀ i : Fin 128, regAt (BitVec.ofNat 8 (0x80 + i.val)) = .buf i) ∧
  (∀ wa : BitVec 8, regAt wa = .unmapped ↔
    (0x06 ≤ wa.toNat ∧ wa.toNat ≤ 0x07) ∨ (0x0C ≤ wa.toNat ∧ wa.toNat ≤ 0x7F))

/-- R65: every read is answered, adds its one value to the values read, and changes no register of the block, in every
state. -/
def Obligations.ReadsChangeNoRegister : Prop :=
  ∀ (s : State) (wa : BitVec 8),
    ∃ t, access (.read wa) s = .next t ∧ SameBlock s t ∧
      t.reads = readValue wa { s with bus := some (.read wa) } :: s.reads ∧ t.script = s.script ∧
      t.schedule = s.schedule

/-- R198: `recordError` keeps the first error and touches nothing else. An error's code, which software reads in ERR,
is its number in the table of R220. -/
def Obligations.FirstErrorIsKept : Prop :=
  (∀ (s : State) (e : ErrorName),
    (s.err = 0x00 → recordError e s = { s with err := errorCode e }) ∧
    (s.err ≠ 0x00 → recordError e s = s) ∧
    (∀ e', recordError e' (recordError e s) = recordError e s)) ∧
  errorCode .busy = 0x01 ∧ errorCode .illegal = 0x02 ∧ errorCode .nokey = 0x03 ∧
  errorCode .stream = 0x04 ∧ errorCode .keylock = 0x05 ∧ errorCode .badarg = 0x06

/-- R33, R222: the interrupt output, and the ways it is cleared. -/
def Obligations.InterruptOutput : Prop :=
  ∀ s : State,
    (irq s = true ↔ s.ie = true ∧ (s.done = true ∨ s.err ≠ 0x00)) ∧
    (s.rst = false →
      ∃ t u, access (.write 0x01 0x00000002) s = .next t ∧ access (.write 0x02 0) t = .next u ∧ irq u = false) ∧
    (∀ i t, s.bus ≠ none → exec i s = .next t → t.pend ≠ s.pend → s.err = 0x00 → irq t = false)

/-! Reset, invariant, progress. -/

/-- R250, R252: the state after reset and the state in which `rst` is asserted, whatever went before; nothing is pending
afterwards, so a pending command is abandoned (R251). That the registers hold their reset values already in the step
that asserts `rst` is the model's choice (notes/assumptions/6.md); so are the free values that BUF holds, its form of
"unspecified" (notes/assumptions/4.md). -/
def Obligations.ResetValues : Prop :=
  AtResetValues State.reset ∧ State.reset.rst = false ∧ keyValid State.reset = false ∧ irq State.reset = false ∧
  (∀ s : State, ∀ rest, nextTurn s = .host → s.script = .rst true :: rest →
    ∃ t, step s = .next t ∧ AtResetValues t ∧ t.rst = true ∧ keyValid t = false ∧ irq t = false ∧
      t.buf = drawBlock s.draws ∧ t.draws = s.draws + 1)

/-- R250: while `rst` is asserted every access is ignored and a read returns a free value; releasing it changes no
register. -/
def Obligations.AccessesAreIgnoredInReset : Prop :=
  ∀ s : State, s.rst = true →
    (∀ wa v, access (.write wa v) s = .next { s with bus := some (.write wa v) }) ∧
    (∀ wa, access (.read wa) s = .next
      { s with bus := some (.read wa), reads := Config.resetRead s.draws :: s.reads, draws := s.draws + 1 }) ∧
    (∀ rest, nextTurn s = .host → s.script = .rst false :: rest →
      step s = .next { s with rst := false, bus := none, script := rest, schedule := s.schedule.tail })

/-- R32 holds after reset, with the rest of the invariant (the field `reset_held` of which rests on
notes/assumptions/6.md). -/
def Obligations.ResetMeetsTheInvariant : Prop := Inv State.reset

/-- R32: every step keeps the invariant, which also says what acceptance left true of a pending command (R188, R196),
and that an asserted `rst` holds the block at its reset values: the model's choice (notes/assumptions/6.md). -/
def Obligations.StepKeepsTheInvariant : Prop :=
  ∀ s t : State, Inv s → step s = .next t → Inv t

/-- R109, R180, R220: from a state that meets the invariant every step reaches a next state: no access and no
completion stops the machine. -/
def Obligations.StepNeverStops : Prop :=
  ∀ s : State, Inv s → ∃ t, step s = .next t

/-- R257: a pending command is performed after finitely many steps, at most one more than the schedule lists, whatever
the host does meanwhile. The schedule is the model's
form of LAT and of weak fairness (notes/assumptions/2.md). -/
def Obligations.PendingCommandCompletes : Prop :=
  ∀ s : State, Inv s → s.pend ≠ none →
    ∃ k ≤ s.schedule.length + 1, ∃ t, Sys2Proof.core.run k s = .next t ∧ t.pend = none

/-- R196, R254: while BUSY = 1 no step of the host but a reset changes what the pending command reads, or the command
itself. -/
def Obligations.BusyFreezesTheInputs : Prop :=
  ∀ s t : State, s.busy = true → nextTurn s = .host → (∀ rest, s.script ≠ .rst true :: rest) →
    step s = .next t →
    t.key = s.key ∧ t.keywr = s.keywr ∧ t.buf = s.buf ∧ t.stream = s.stream ∧ t.pend = s.pend ∧
      t.busy = true ∧ t.outlen = s.outlen ∧ t.blkcnt = s.blkcnt

/-- R256, R20: while a stream is open no step but the host's assertion of `rst` changes the key or its validity. -/
def Obligations.KeyIsFixedWhileAStreamIsOpen : Prop :=
  ∀ s t : State, Inv s → streamOpen s.stream = true →
    ¬ (nextTurn s = .host ∧ ∃ rest, s.script = .rst true :: rest) →
    step s = .next t → t.key = s.key ∧ t.keywr = s.keywr

/-- R68, R89: a poll of `wait` leaves the wait exactly when BUSY = 0, and then nothing is pending. -/
def Obligations.WaitEndsWithTheCompletion : Prop :=
  ∀ (s : State) (rest : List HostAction), Inv s → s.rst = false → nextTurn s = .host →
    s.script = .wait :: rest →
    ∃ t, step s = .next t ∧ SameBlock s t ∧ t.reads = statusWord s :: s.reads ∧
      (t.script = if s.pend = none then rest else s.script)
end

