-- ==== Sys2Proof/Laws/State.lean ====
section
/-! SUPPORT. One lemma for each field and each named update of the state, so that no proof unfolds an update. -/

namespace Sys2Proof.Machine

variable (s : State)

@[simp] theorem start_ie (i : Instr) : (start i s).ie = s.ie := rfl
@[simp] theorem start_busy (i : Instr) : (start i s).busy = true := rfl
@[simp] theorem start_done (i : Instr) : (start i s).done = false := rfl
@[simp] theorem start_stream (i : Instr) : (start i s).stream = s.stream := rfl
@[simp] theorem start_err (i : Instr) : (start i s).err = s.err := rfl
@[simp] theorem start_outlen (i : Instr) : (start i s).outlen = s.outlen := rfl
@[simp] theorem start_blkcnt (i : Instr) : (start i s).blkcnt = s.blkcnt := rfl
@[simp] theorem start_key (i : Instr) : (start i s).key = s.key := rfl
@[simp] theorem start_buf (i : Instr) : (start i s).buf = s.buf := rfl
@[simp] theorem start_keywr (i : Instr) : (start i s).keywr = s.keywr := rfl
@[simp] theorem start_pend (i : Instr) : (start i s).pend = some i := rfl
@[simp] theorem start_rst (i : Instr) : (start i s).rst = s.rst := rfl
@[simp] theorem start_bus (i : Instr) : (start i s).bus = s.bus := rfl
@[simp] theorem start_reads (i : Instr) : (start i s).reads = s.reads := rfl
@[simp] theorem start_script (i : Instr) : (start i s).script = s.script := rfl
@[simp] theorem start_schedule (i : Instr) : (start i s).schedule = s.schedule := rfl
@[simp] theorem start_draws (i : Instr) : (start i s).draws = s.draws := rfl

@[simp] theorem finish_ie : (finish s).ie = s.ie := rfl
@[simp] theorem finish_busy : (finish s).busy = false := rfl
@[simp] theorem finish_done : (finish s).done = true := rfl
@[simp] theorem finish_stream : (finish s).stream = s.stream := rfl
@[simp] theorem finish_err : (finish s).err = s.err := rfl
@[simp] theorem finish_outlen : (finish s).outlen = s.outlen := rfl
@[simp] theorem finish_blkcnt : (finish s).blkcnt = s.blkcnt := rfl
@[simp] theorem finish_key : (finish s).key = s.key := rfl
@[simp] theorem finish_buf : (finish s).buf = s.buf := rfl
@[simp] theorem finish_keywr : (finish s).keywr = s.keywr := rfl
@[simp] theorem finish_pend : (finish s).pend = none := rfl
@[simp] theorem finish_rst : (finish s).rst = s.rst := rfl
@[simp] theorem finish_bus : (finish s).bus = s.bus := rfl
@[simp] theorem finish_reads : (finish s).reads = s.reads := rfl
@[simp] theorem finish_script : (finish s).script = s.script := rfl
@[simp] theorem finish_schedule : (finish s).schedule = s.schedule := rfl
@[simp] theorem finish_draws : (finish s).draws = s.draws := rfl

@[simp] theorem clearError_ie : (clearError s).ie = s.ie := rfl
@[simp] theorem clearError_busy : (clearError s).busy = s.busy := rfl
@[simp] theorem clearError_done : (clearError s).done = s.done := rfl
@[simp] theorem clearError_stream : (clearError s).stream = s.stream := rfl
@[simp] theorem clearError_err : (clearError s).err = 0x00 := rfl
@[simp] theorem clearError_outlen : (clearError s).outlen = s.outlen := rfl
@[simp] theorem clearError_blkcnt : (clearError s).blkcnt = s.blkcnt := rfl
@[simp] theorem clearError_key : (clearError s).key = s.key := rfl
@[simp] theorem clearError_buf : (clearError s).buf = s.buf := rfl
@[simp] theorem clearError_keywr : (clearError s).keywr = s.keywr := rfl
@[simp] theorem clearError_pend : (clearError s).pend = s.pend := rfl
@[simp] theorem clearError_rst : (clearError s).rst = s.rst := rfl
@[simp] theorem clearError_bus : (clearError s).bus = s.bus := rfl
@[simp] theorem clearError_reads : (clearError s).reads = s.reads := rfl
@[simp] theorem clearError_script : (clearError s).script = s.script := rfl
@[simp] theorem clearError_schedule : (clearError s).schedule = s.schedule := rfl
@[simp] theorem clearError_draws : (clearError s).draws = s.draws := rfl

@[simp] theorem outputBlock_ie (b : Vector Word 128) : (outputBlock b s).ie = s.ie := rfl
@[simp] theorem outputBlock_busy (b : Vector Word 128) : (outputBlock b s).busy = s.busy := rfl
@[simp] theorem outputBlock_done (b : Vector Word 128) : (outputBlock b s).done = s.done := rfl
@[simp] theorem outputBlock_stream (b : Vector Word 128) : (outputBlock b s).stream = s.stream := rfl
@[simp] theorem outputBlock_err (b : Vector Word 128) : (outputBlock b s).err = s.err := rfl
@[simp] theorem outputBlock_outlen (b : Vector Word 128) : (outputBlock b s).outlen = 512 := rfl
@[simp] theorem outputBlock_blkcnt (b : Vector Word 128) : (outputBlock b s).blkcnt = s.blkcnt + 1 := rfl
@[simp] theorem outputBlock_key (b : Vector Word 128) : (outputBlock b s).key = s.key := rfl
@[simp] theorem outputBlock_buf (b : Vector Word 128) : (outputBlock b s).buf = b := rfl
@[simp] theorem outputBlock_keywr (b : Vector Word 128) : (outputBlock b s).keywr = s.keywr := rfl
@[simp] theorem outputBlock_pend (b : Vector Word 128) : (outputBlock b s).pend = s.pend := rfl
@[simp] theorem outputBlock_rst (b : Vector Word 128) : (outputBlock b s).rst = s.rst := rfl
@[simp] theorem outputBlock_bus (b : Vector Word 128) : (outputBlock b s).bus = s.bus := rfl
@[simp] theorem outputBlock_reads (b : Vector Word 128) : (outputBlock b s).reads = s.reads := rfl
@[simp] theorem outputBlock_script (b : Vector Word 128) : (outputBlock b s).script = s.script := rfl
@[simp] theorem outputBlock_schedule (b : Vector Word 128) : (outputBlock b s).schedule = s.schedule := rfl
@[simp] theorem outputBlock_draws (b : Vector Word 128) : (outputBlock b s).draws = s.draws := rfl

@[simp] theorem openStream_ie (m : Stream) : (openStream m s).ie = s.ie := rfl
@[simp] theorem openStream_busy (m : Stream) : (openStream m s).busy = s.busy := rfl
@[simp] theorem openStream_done (m : Stream) : (openStream m s).done = s.done := rfl
@[simp] theorem openStream_stream (m : Stream) : (openStream m s).stream = m := rfl
@[simp] theorem openStream_err (m : Stream) : (openStream m s).err = s.err := rfl
@[simp] theorem openStream_outlen (m : Stream) : (openStream m s).outlen = 0 := rfl
@[simp] theorem openStream_blkcnt (m : Stream) : (openStream m s).blkcnt = 0 := rfl
@[simp] theorem openStream_key (m : Stream) : (openStream m s).key = s.key := rfl
@[simp] theorem openStream_buf (m : Stream) : (openStream m s).buf = s.buf := rfl
@[simp] theorem openStream_keywr (m : Stream) : (openStream m s).keywr = s.keywr := rfl
@[simp] theorem openStream_pend (m : Stream) : (openStream m s).pend = s.pend := rfl
@[simp] theorem openStream_rst (m : Stream) : (openStream m s).rst = s.rst := rfl
@[simp] theorem openStream_bus (m : Stream) : (openStream m s).bus = s.bus := rfl
@[simp] theorem openStream_reads (m : Stream) : (openStream m s).reads = s.reads := rfl
@[simp] theorem openStream_script (m : Stream) : (openStream m s).script = s.script := rfl
@[simp] theorem openStream_schedule (m : Stream) : (openStream m s).schedule = s.schedule := rfl
@[simp] theorem openStream_draws (m : Stream) : (openStream m s).draws = s.draws := rfl

@[simp] theorem endStream_ie : (endStream s).ie = s.ie := rfl
@[simp] theorem endStream_busy : (endStream s).busy = s.busy := rfl
@[simp] theorem endStream_done : (endStream s).done = s.done := rfl
@[simp] theorem endStream_stream : (endStream s).stream = .ended := rfl
@[simp] theorem endStream_err : (endStream s).err = s.err := rfl
@[simp] theorem endStream_outlen : (endStream s).outlen = s.outlen := rfl
@[simp] theorem endStream_blkcnt : (endStream s).blkcnt = s.blkcnt := rfl
@[simp] theorem endStream_key : (endStream s).key = s.key := rfl
@[simp] theorem endStream_buf : (endStream s).buf = s.buf := rfl
@[simp] theorem endStream_keywr : (endStream s).keywr = s.keywr := rfl
@[simp] theorem endStream_pend : (endStream s).pend = s.pend := rfl
@[simp] theorem endStream_rst : (endStream s).rst = s.rst := rfl
@[simp] theorem endStream_bus : (endStream s).bus = s.bus := rfl
@[simp] theorem endStream_reads : (endStream s).reads = s.reads := rfl
@[simp] theorem endStream_script : (endStream s).script = s.script := rfl
@[simp] theorem endStream_schedule : (endStream s).schedule = s.schedule := rfl
@[simp] theorem endStream_draws : (endStream s).draws = s.draws := rfl

@[simp] theorem outputNothing_ie : (outputNothing s).ie = s.ie := rfl
@[simp] theorem outputNothing_busy : (outputNothing s).busy = s.busy := rfl
@[simp] theorem outputNothing_done : (outputNothing s).done = s.done := rfl
@[simp] theorem outputNothing_stream : (outputNothing s).stream = s.stream := rfl
@[simp] theorem outputNothing_err : (outputNothing s).err = s.err := rfl
@[simp] theorem outputNothing_outlen : (outputNothing s).outlen = 0 := rfl
@[simp] theorem outputNothing_blkcnt : (outputNothing s).blkcnt = s.blkcnt := rfl
@[simp] theorem outputNothing_key : (outputNothing s).key = s.key := rfl
@[simp] theorem outputNothing_buf : (outputNothing s).buf = s.buf := rfl
@[simp] theorem outputNothing_keywr : (outputNothing s).keywr = s.keywr := rfl
@[simp] theorem outputNothing_pend : (outputNothing s).pend = s.pend := rfl
@[simp] theorem outputNothing_rst : (outputNothing s).rst = s.rst := rfl
@[simp] theorem outputNothing_bus : (outputNothing s).bus = s.bus := rfl
@[simp] theorem outputNothing_reads : (outputNothing s).reads = s.reads := rfl
@[simp] theorem outputNothing_script : (outputNothing s).script = s.script := rfl
@[simp] theorem outputNothing_schedule : (outputNothing s).schedule = s.schedule := rfl
@[simp] theorem outputNothing_draws : (outputNothing s).draws = s.draws := rfl

@[simp] theorem writeKeyWord_ie (i : Fin 4) (v : Word) : (writeKeyWord i v s).ie = s.ie := rfl
@[simp] theorem writeKeyWord_busy (i : Fin 4) (v : Word) : (writeKeyWord i v s).busy = s.busy := rfl
@[simp] theorem writeKeyWord_done (i : Fin 4) (v : Word) : (writeKeyWord i v s).done = s.done := rfl
@[simp] theorem writeKeyWord_stream (i : Fin 4) (v : Word) : (writeKeyWord i v s).stream = s.stream := rfl
@[simp] theorem writeKeyWord_err (i : Fin 4) (v : Word) : (writeKeyWord i v s).err = s.err := rfl
@[simp] theorem writeKeyWord_outlen (i : Fin 4) (v : Word) : (writeKeyWord i v s).outlen = s.outlen := rfl
@[simp] theorem writeKeyWord_blkcnt (i : Fin 4) (v : Word) : (writeKeyWord i v s).blkcnt = s.blkcnt := rfl
@[simp] theorem writeKeyWord_key (i : Fin 4) (v : Word) : (writeKeyWord i v s).key = s.key.set i v := rfl
@[simp] theorem writeKeyWord_buf (i : Fin 4) (v : Word) : (writeKeyWord i v s).buf = s.buf := rfl
@[simp] theorem writeKeyWord_keywr (i : Fin 4) (v : Word) : (writeKeyWord i v s).keywr = s.keywr ||| (1#4 <<< i.val) := rfl
@[simp] theorem writeKeyWord_pend (i : Fin 4) (v : Word) : (writeKeyWord i v s).pend = s.pend := rfl
@[simp] theorem writeKeyWord_rst (i : Fin 4) (v : Word) : (writeKeyWord i v s).rst = s.rst := rfl
@[simp] theorem writeKeyWord_bus (i : Fin 4) (v : Word) : (writeKeyWord i v s).bus = s.bus := rfl
@[simp] theorem writeKeyWord_reads (i : Fin 4) (v : Word) : (writeKeyWord i v s).reads = s.reads := rfl
@[simp] theorem writeKeyWord_script (i : Fin 4) (v : Word) : (writeKeyWord i v s).script = s.script := rfl
@[simp] theorem writeKeyWord_schedule (i : Fin 4) (v : Word) : (writeKeyWord i v s).schedule = s.schedule := rfl
@[simp] theorem writeKeyWord_draws (i : Fin 4) (v : Word) : (writeKeyWord i v s).draws = s.draws := rfl

@[simp] theorem clearKey_ie : (clearKey s).ie = s.ie := rfl
@[simp] theorem clearKey_busy : (clearKey s).busy = s.busy := rfl
@[simp] theorem clearKey_done : (clearKey s).done = s.done := rfl
@[simp] theorem clearKey_stream : (clearKey s).stream = s.stream := rfl
@[simp] theorem clearKey_err : (clearKey s).err = s.err := rfl
@[simp] theorem clearKey_outlen : (clearKey s).outlen = s.outlen := rfl
@[simp] theorem clearKey_blkcnt : (clearKey s).blkcnt = s.blkcnt := rfl
@[simp] theorem clearKey_key : (clearKey s).key = Vector.replicate 4 0 := rfl
@[simp] theorem clearKey_buf : (clearKey s).buf = s.buf := rfl
@[simp] theorem clearKey_keywr : (clearKey s).keywr = 0b0000 := rfl
@[simp] theorem clearKey_pend : (clearKey s).pend = s.pend := rfl
@[simp] theorem clearKey_rst : (clearKey s).rst = s.rst := rfl
@[simp] theorem clearKey_bus : (clearKey s).bus = s.bus := rfl
@[simp] theorem clearKey_reads : (clearKey s).reads = s.reads := rfl
@[simp] theorem clearKey_script : (clearKey s).script = s.script := rfl
@[simp] theorem clearKey_schedule : (clearKey s).schedule = s.schedule := rfl
@[simp] theorem clearKey_draws : (clearKey s).draws = s.draws := rfl

@[simp] theorem writeBufWord_ie (i : Fin 128) (v : Word) : (writeBufWord i v s).ie = s.ie := rfl
@[simp] theorem writeBufWord_busy (i : Fin 128) (v : Word) : (writeBufWord i v s).busy = s.busy := rfl
@[simp] theorem writeBufWord_done (i : Fin 128) (v : Word) : (writeBufWord i v s).done = s.done := rfl
@[simp] theorem writeBufWord_stream (i : Fin 128) (v : Word) : (writeBufWord i v s).stream = s.stream := rfl
@[simp] theorem writeBufWord_err (i : Fin 128) (v : Word) : (writeBufWord i v s).err = s.err := rfl
@[simp] theorem writeBufWord_outlen (i : Fin 128) (v : Word) : (writeBufWord i v s).outlen = s.outlen := rfl
@[simp] theorem writeBufWord_blkcnt (i : Fin 128) (v : Word) : (writeBufWord i v s).blkcnt = s.blkcnt := rfl
@[simp] theorem writeBufWord_key (i : Fin 128) (v : Word) : (writeBufWord i v s).key = s.key := rfl
@[simp] theorem writeBufWord_buf (i : Fin 128) (v : Word) : (writeBufWord i v s).buf = s.buf.set i v := rfl
@[simp] theorem writeBufWord_keywr (i : Fin 128) (v : Word) : (writeBufWord i v s).keywr = s.keywr := rfl
@[simp] theorem writeBufWord_pend (i : Fin 128) (v : Word) : (writeBufWord i v s).pend = s.pend := rfl
@[simp] theorem writeBufWord_rst (i : Fin 128) (v : Word) : (writeBufWord i v s).rst = s.rst := rfl
@[simp] theorem writeBufWord_bus (i : Fin 128) (v : Word) : (writeBufWord i v s).bus = s.bus := rfl
@[simp] theorem writeBufWord_reads (i : Fin 128) (v : Word) : (writeBufWord i v s).reads = s.reads := rfl
@[simp] theorem writeBufWord_script (i : Fin 128) (v : Word) : (writeBufWord i v s).script = s.script := rfl
@[simp] theorem writeBufWord_schedule (i : Fin 128) (v : Word) : (writeBufWord i v s).schedule = s.schedule := rfl
@[simp] theorem writeBufWord_draws (i : Fin 128) (v : Word) : (writeBufWord i v s).draws = s.draws := rfl

@[simp] theorem assertReset_ie : (assertReset s).ie = false := rfl
@[simp] theorem assertReset_busy : (assertReset s).busy = false := rfl
@[simp] theorem assertReset_done : (assertReset s).done = false := rfl
@[simp] theorem assertReset_stream : (assertReset s).stream = .idle := rfl
@[simp] theorem assertReset_err : (assertReset s).err = 0x00 := rfl
@[simp] theorem assertReset_outlen : (assertReset s).outlen = 0 := rfl
@[simp] theorem assertReset_blkcnt : (assertReset s).blkcnt = 0 := rfl
@[simp] theorem assertReset_key : (assertReset s).key = Vector.replicate 4 0 := rfl
@[simp] theorem assertReset_buf : (assertReset s).buf = drawBlock s.draws := rfl
@[simp] theorem assertReset_keywr : (assertReset s).keywr = 0b0000 := rfl
@[simp] theorem assertReset_pend : (assertReset s).pend = none := rfl
@[simp] theorem assertReset_rst : (assertReset s).rst = true := rfl
@[simp] theorem assertReset_bus : (assertReset s).bus = none := rfl
@[simp] theorem assertReset_reads : (assertReset s).reads = s.reads := rfl
@[simp] theorem assertReset_script : (assertReset s).script = s.script := rfl
@[simp] theorem assertReset_schedule : (assertReset s).schedule = s.schedule := rfl
@[simp] theorem assertReset_draws : (assertReset s).draws = s.draws + 1 := rfl

@[simp] theorem releaseReset_ie : (releaseReset s).ie = s.ie := rfl
@[simp] theorem releaseReset_busy : (releaseReset s).busy = s.busy := rfl
@[simp] theorem releaseReset_done : (releaseReset s).done = s.done := rfl
@[simp] theorem releaseReset_stream : (releaseReset s).stream = s.stream := rfl
@[simp] theorem releaseReset_err : (releaseReset s).err = s.err := rfl
@[simp] theorem releaseReset_outlen : (releaseReset s).outlen = s.outlen := rfl
@[simp] theorem releaseReset_blkcnt : (releaseReset s).blkcnt = s.blkcnt := rfl
@[simp] theorem releaseReset_key : (releaseReset s).key = s.key := rfl
@[simp] theorem releaseReset_buf : (releaseReset s).buf = s.buf := rfl
@[simp] theorem releaseReset_keywr : (releaseReset s).keywr = s.keywr := rfl
@[simp] theorem releaseReset_pend : (releaseReset s).pend = s.pend := rfl
@[simp] theorem releaseReset_rst : (releaseReset s).rst = false := rfl
@[simp] theorem releaseReset_bus : (releaseReset s).bus = s.bus := rfl
@[simp] theorem releaseReset_reads : (releaseReset s).reads = s.reads := rfl
@[simp] theorem releaseReset_script : (releaseReset s).script = s.script := rfl
@[simp] theorem releaseReset_schedule : (releaseReset s).schedule = s.schedule := rfl
@[simp] theorem releaseReset_draws : (releaseReset s).draws = s.draws := rfl

@[simp] theorem hostRead_ie (wa : BitVec 8) : (hostRead wa s).ie = s.ie := rfl
@[simp] theorem hostRead_busy (wa : BitVec 8) : (hostRead wa s).busy = s.busy := rfl
@[simp] theorem hostRead_done (wa : BitVec 8) : (hostRead wa s).done = s.done := rfl
@[simp] theorem hostRead_stream (wa : BitVec 8) : (hostRead wa s).stream = s.stream := rfl
@[simp] theorem hostRead_err (wa : BitVec 8) : (hostRead wa s).err = s.err := rfl
@[simp] theorem hostRead_outlen (wa : BitVec 8) : (hostRead wa s).outlen = s.outlen := rfl
@[simp] theorem hostRead_blkcnt (wa : BitVec 8) : (hostRead wa s).blkcnt = s.blkcnt := rfl
@[simp] theorem hostRead_key (wa : BitVec 8) : (hostRead wa s).key = s.key := rfl
@[simp] theorem hostRead_buf (wa : BitVec 8) : (hostRead wa s).buf = s.buf := rfl
@[simp] theorem hostRead_keywr (wa : BitVec 8) : (hostRead wa s).keywr = s.keywr := rfl
@[simp] theorem hostRead_pend (wa : BitVec 8) : (hostRead wa s).pend = s.pend := rfl
@[simp] theorem hostRead_rst (wa : BitVec 8) : (hostRead wa s).rst = s.rst := rfl
@[simp] theorem hostRead_bus (wa : BitVec 8) : (hostRead wa s).bus = s.bus := rfl
@[simp] theorem hostRead_reads (wa : BitVec 8) : (hostRead wa s).reads = readValue wa s :: s.reads := rfl
@[simp] theorem hostRead_script (wa : BitVec 8) : (hostRead wa s).script = s.script := rfl
@[simp] theorem hostRead_schedule (wa : BitVec 8) : (hostRead wa s).schedule = s.schedule := rfl
@[simp] theorem hostRead_draws (wa : BitVec 8) : (hostRead wa s).draws = if readDraws wa s then s.draws + 1 else s.draws := rfl

/-! Recording an error touches ERR alone. -/

@[simp] theorem recordError_ie (e : ErrorName) : (recordError e s).ie = s.ie := by
  unfold recordError; split <;> rfl
@[simp] theorem recordError_busy (e : ErrorName) : (recordError e s).busy = s.busy := by
  unfold recordError; split <;> rfl
@[simp] theorem recordError_done (e : ErrorName) : (recordError e s).done = s.done := by
  unfold recordError; split <;> rfl
@[simp] theorem recordError_stream (e : ErrorName) : (recordError e s).stream = s.stream := by
  unfold recordError; split <;> rfl
@[simp] theorem recordError_outlen (e : ErrorName) : (recordError e s).outlen = s.outlen := by
  unfold recordError; split <;> rfl
@[simp] theorem recordError_blkcnt (e : ErrorName) : (recordError e s).blkcnt = s.blkcnt := by
  unfold recordError; split <;> rfl
@[simp] theorem recordError_key (e : ErrorName) : (recordError e s).key = s.key := by
  unfold recordError; split <;> rfl
@[simp] theorem recordError_buf (e : ErrorName) : (recordError e s).buf = s.buf := by
  unfold recordError; split <;> rfl
@[simp] theorem recordError_keywr (e : ErrorName) : (recordError e s).keywr = s.keywr := by
  unfold recordError; split <;> rfl
@[simp] theorem recordError_pend (e : ErrorName) : (recordError e s).pend = s.pend := by
  unfold recordError; split <;> rfl
@[simp] theorem recordError_rst (e : ErrorName) : (recordError e s).rst = s.rst := by
  unfold recordError; split <;> rfl
@[simp] theorem recordError_bus (e : ErrorName) : (recordError e s).bus = s.bus := by
  unfold recordError; split <;> rfl
@[simp] theorem recordError_reads (e : ErrorName) : (recordError e s).reads = s.reads := by
  unfold recordError; split <;> rfl
@[simp] theorem recordError_script (e : ErrorName) : (recordError e s).script = s.script := by
  unfold recordError; split <;> rfl
@[simp] theorem recordError_schedule (e : ErrorName) : (recordError e s).schedule = s.schedule := by
  unfold recordError; split <;> rfl
@[simp] theorem recordError_draws (e : ErrorName) : (recordError e s).draws = s.draws := by
  unfold recordError; split <;> rfl

/-- R198: the code is kept when there is one already. -/
@[simp] theorem recordError_err (e : ErrorName) :
    (recordError e s).err = if s.err = 0x00 then errorCode e else s.err := by
  unfold recordError; split <;> rfl

end Sys2Proof.Machine
end

