-- ==== Sys2Proof/Laws/Accept.lean ====
section
/-! SUPPORT. What the acceptance of a command can do, and each meaning cut into its two phases. -/

namespace Sys2Proof.Machine

/-- No error has the code 0x00 (R220). -/
theorem errorCode_ne_zero (e : ErrorName) : errorCode e ≠ 0x00 := by cases e <;> decide

/-- The codes of R220 are distinct. -/
theorem errorCode_injective {e e' : ErrorName} (h : errorCode e = errorCode e') : e = e' := by
  cases e <;> cases e' <;> first | rfl | (revert h; decide)

/-- The codes of R220 are 0x01 to 0x06. -/
theorem errorCode_le (e : ErrorName) : (errorCode e).toNat ≤ 6 := by cases e <;> decide

theorem streamOpen_iff (m : Stream) : streamOpen m = true ↔ m = .enc ∨ m = .dec := by
  cases m <;> simp [streamOpen]

theorem streamOpen_eq_false (m : Stream) : streamOpen m = false ↔ m = .idle ∨ m = .ended := by
  cases m <;> simp [streamOpen]

theorem wordCountOk_iff (n : Nat) : wordCountOk n = true ↔ 2 ≤ n ∧ n ≤ 128 := by simp [wordCountOk]

theorem wordCountOk_eq_false (n : Nat) : wordCountOk n = false ↔ n < 2 ∨ 128 < n := by
  simp only [wordCountOk, decide_eq_false_iff_not]; omega

theorem chunkLengthOk_iff (l : Nat) : chunkLengthOk l = true ↔ l ≤ 512 :=
  decide_eq_true_iff

theorem chunkLengthOk_eq_false (l : Nat) : chunkLengthOk l = false ↔ 512 < l := by
  rw [← Bool.not_eq_true, chunkLengthOk_iff]; omega

variable {s : State}

/-- Acceptance rejects, recording one error and touching nothing else, or starts the command. -/
theorem offer_cases (i : Instr) (checks : List (Bool × ErrorName)) (s : State) :
    (∃ e, firstFailure checks = some e ∧ offer i checks s = recordError e s) ∨
    (firstFailure checks = none ∧ offer i checks s = start i s) := by
  unfold offer
  cases h : firstFailure checks with
  | none => exact .inr ⟨rfl, rfl⟩
  | some e => exact .inl ⟨e, rfl, rfl⟩

/-- No check fails exactly when each is passed. -/
theorem firstFailure_eq_none (checks : List (Bool × ErrorName)) :
    firstFailure checks = none ↔ ∀ c ∈ checks, c.1 = false := by
  induction checks with
  | nil => simp [firstFailure]
  | cons c rest ih => obtain ⟨b, e⟩ := c; cases b <;> simp [firstFailure, ih]

/-- The checks of acceptance after decoding, command by command (R188). -/
def acceptanceChecks (s : State) : Instr → List (Bool × ErrorName)
  | .scramble n => transformChecks n s
  | .unscramble n => transformChecks n s
  | .keyclr => [(s.busy, .busy), (streamOpen s.stream, .keylock)]
  | .encopen => openChecks s
  | .decopen => openChecks s
  | .chunk l => [(s.busy, .busy), (!streamOpen s.stream, .stream), (!chunkLengthOk l, .badarg)]
  | .close => [(s.busy, .busy)]

/-- With an access on the port, every command is accepted or rejected by its checks. -/
theorem exec_offered (i : Instr) (h : s.bus ≠ none) :
    exec i s = .next (offer i (acceptanceChecks s i) s) := by
  obtain ⟨a, ha⟩ := Option.ne_none_iff_exists'.1 h
  cases i <;> simp [exec, execScramble, execUnscramble, execKeyclr, execEncopen, execDecopen, execChunk, execClose,
    acceptanceChecks, ha]

/-- A command that fails no check of R188 is offered while nothing is pending. -/
theorem firstFailure_busy {i : Instr} (h : firstFailure (acceptanceChecks s i) = none) : s.busy = false := by
  rw [firstFailure_eq_none] at h
  cases i <;> exact h (s.busy, .busy) (by simp [acceptanceChecks, transformChecks, openChecks])

/-! With nothing on the port, every command is performed. -/

theorem exec_scramble_performed {n : Nat} (h : s.bus = none) (hn : wordCountOk n = true) :
    exec (.scramble n) s = .next (finish { s with buf := onWords n (scramble n s.key) s.buf }) := by
  simp [exec, execScramble, h, hn]

theorem exec_unscramble_performed {n : Nat} (h : s.bus = none) (hn : wordCountOk n = true) :
    exec (.unscramble n) s = .next (finish { s with buf := onWords n (unscramble n s.key) s.buf }) := by
  simp [exec, execUnscramble, h, hn]

theorem exec_keyclr_performed (h : s.bus = none) : exec .keyclr s = .next (finish (clearKey s)) := by
  simp [exec, execKeyclr, h]

theorem exec_encopen_performed (h : s.bus = none) : exec .encopen s = .next (finish (openStream .enc s)) := by
  simp [exec, execEncopen, h]

theorem exec_decopen_performed (h : s.bus = none) : exec .decopen s = .next (finish (openStream .dec s)) := by
  simp [exec, execDecopen, h]

theorem exec_close_performed (h : s.bus = none) : exec .close s = .next (finish { s with stream := .idle }) := by
  simp [exec, execClose, h]

theorem exec_chunk_enc {l : Nat} (h : s.bus = none) (hs : s.stream = .enc) (hl : chunkLengthOk l = true) :
    exec (.chunk l) s = .next (finish (encryptStep l s)) := by
  simp [exec, execChunk, performChunk, h, hs, hl]

theorem exec_chunk_dec {l : Nat} (h : s.bus = none) (hs : s.stream = .dec) (hl : chunkLengthOk l = true) :
    exec (.chunk l) s = .next (finish (decryptStep l s)) := by
  simp [exec, execChunk, performChunk, h, hs, hl]

/-- Everything a performed command can be, where it reaches a next state. -/
theorem exec_performed_cases {i : Instr} {t : State} (h : s.bus = none) (hx : exec i s = .next t) :
    (∃ n, i = .scramble n ∧ wordCountOk n = true ∧
      t = finish { s with buf := onWords n (scramble n s.key) s.buf }) ∨
    (∃ n, i = .unscramble n ∧ wordCountOk n = true ∧
      t = finish { s with buf := onWords n (unscramble n s.key) s.buf }) ∨
    (i = .keyclr ∧ t = finish (clearKey s)) ∨
    (i = .encopen ∧ t = finish (openStream .enc s)) ∨
    (i = .decopen ∧ t = finish (openStream .dec s)) ∨
    (∃ l, i = .chunk l ∧ chunkLengthOk l = true ∧ s.stream = .enc ∧ t = finish (encryptStep l s)) ∨
    (∃ l, i = .chunk l ∧ chunkLengthOk l = true ∧ s.stream = .dec ∧ t = finish (decryptStep l s)) ∨
    (i = .close ∧ t = finish { s with stream := .idle }) := by
  cases i with
  | scramble n =>
    cases hn : wordCountOk n with
    | false => simp [exec, execScramble, h, hn] at hx
    | true => rw [exec_scramble_performed h hn] at hx; cases hx; exact .inl ⟨n, rfl, hn, rfl⟩
  | unscramble n =>
    cases hn : wordCountOk n with
    | false => simp [exec, execUnscramble, h, hn] at hx
    | true => rw [exec_unscramble_performed h hn] at hx; cases hx; exact .inr (.inl ⟨n, rfl, hn, rfl⟩)
  | keyclr => rw [exec_keyclr_performed h] at hx; cases hx; simp
  | encopen => rw [exec_encopen_performed h] at hx; cases hx; simp
  | decopen => rw [exec_decopen_performed h] at hx; cases hx; simp
  | chunk l =>
    cases hl : chunkLengthOk l with
    | false => simp [exec, execChunk, performChunk, h, hl] at hx
    | true =>
      cases hs : s.stream with
      | enc => rw [exec_chunk_enc h hs hl] at hx; cases hx; simp [hl]
      | dec => rw [exec_chunk_dec h hs hl] at hx; cases hx; simp [hl]
      | idle => simp [exec, execChunk, performChunk, h, hl, hs] at hx
      | ended => simp [exec, execChunk, performChunk, h, hl, hs] at hx
  | close => rw [exec_close_performed h] at hx; cases hx; simp

end Sys2Proof.Machine
end

