-- ==== Sys2Proof/Laws/Cipher.lean ====
section
/-! SUPPORT. Small facts about the transforms: reading a rewritten word, and the lengths the walks keep. -/

namespace Sys2Proof.Machine

/-- Reading word `j` after word `i` was replaced. -/
theorem wordAt_set {v : List Word} {i : Nat} (w : Word) (j : Nat) (h : i < v.length) :
    wordAt (v.set i w) j = if i = j then w else wordAt v j := by
  simp only [wordAt, List.getD_eq_getElem?_getD, List.getElem?_set]
  split <;> simp_all

@[simp] theorem wordAt_cons_zero (w : Word) (v : List Word) : wordAt (w :: v) 0 = w := rfl

@[simp] theorem wordAt_cons_succ (w : Word) (v : List Word) (i : Nat) : wordAt (w :: v) (i + 1) = wordAt v i := rfl

/-- The walk from left to right makes no words (R107). -/
@[simp] theorem forwardWalk_length (key : Vector Word 4) (sum : Word) (e : BitVec 2) (v : List Word) (p : Nat)
    (z : Word) : (forwardWalk key sum e p z v).length = v.length := by
  induction v generalizing p z with
  | nil => rfl
  | cons x v ih =>
    cases v with
    | nil => rfl
    | cons y r => simp only [forwardWalk, List.length_cons, ih]

/-- The walk from right to left makes no words (R108). -/
@[simp] theorem backwardWalk_length (key : Vector Word 4) (sum : Word) (e : BitVec 2) (y : Word) (v : List Word)
    (p : Nat) (z : Word) : (backwardWalk key sum e y p z v).length = v.length := by
  induction v generalizing p z with
  | nil => rfl
  | cons x v ih => simp [backwardWalk, ih]

@[simp] theorem ringAdd_length (n : Nat) (key : Vector Word 4) (sum : Word) (v : List Word) (p : Nat) :
    (ringAdd n key sum v p).length = v.length := by simp [ringAdd]

@[simp] theorem ringSub_length (n : Nat) (key : Vector Word 4) (sum : Word) (v : List Word) (p : Nat) :
    (ringSub n key sum v p).length = v.length := by simp [ringSub]

/-- No block has more than 32 rounds (R102, R111). -/
theorem roundCount_le {n : Nat} (h : 2 ≤ n) : roundCount n ≤ 32 := by
  have : 52 / n ≤ 26 := Nat.div_le_of_le_mul (by omega)
  unfold roundCount
  omega

end Sys2Proof.Machine
end

