-- ==== Sys2Proof/Laws/Bytes.lean ====
section
/-! SUPPORT. Small facts about the bytes of a word and about the words of BUF that a transform rewrites. -/

namespace Sys2Proof.Machine

/-- A number below 8 is one of eight: for proofs bit by bit over a byte. -/
theorem below_eight {i : Nat} (h : i < 8) : i = 0 ∨ i = 1 ∨ i = 2 ∨ i = 3 ∨ i = 4 ∨ i = 5 ∨ i = 6 ∨ i = 7 := by omega

/-- The bytes of a word put together from bytes are those bytes (R62). -/
theorem byteOfWord_wordOfBytes (a b c d : Byte) :
    byteOfWord (wordOfBytes a b c d) 0 = a ∧ byteOfWord (wordOfBytes a b c d) 1 = b ∧
      byteOfWord (wordOfBytes a b c d) 2 = c ∧ byteOfWord (wordOfBytes a b c d) 3 = d := by
  unfold wordOfBytes byteOfWord
  refine ⟨?_, ?_, ?_, ?_⟩ <;>
  · ext i hi
    rcases below_eight hi with rfl | rfl | rfl | rfl | rfl | rfl | rfl | rfl <;> simp [BitVec.getLsbD_eq_getElem]

/-- Two words with the same four bytes are equal (R62). -/
theorem word_ext_of_bytes {u w : Word} (h : ∀ k < 4, byteOfWord u k = byteOfWord w k) : u = w := by
  ext i hi
  have hb := congrArg (fun b : Byte => b.getLsbD (i % 8)) (h (i / 8) (by omega))
  simp only [byteOfWord, BitVec.getLsbD_extractLsb', Nat.mod_lt i (by omega : 8 > 0), decide_true, Bool.true_and,
    Nat.div_add_mod] at hb
  rwa [BitVec.getLsbD_eq_getElem hi, BitVec.getLsbD_eq_getElem hi] at hb

/-- A word is its four bytes put together (R62). -/
theorem wordOfBytes_byteOfWord (w : Word) :
    wordOfBytes (byteOfWord w 0) (byteOfWord w 1) (byteOfWord w 2) (byteOfWord w 3) = w := by
  obtain ⟨h0, h1, h2, h3⟩ := byteOfWord_wordOfBytes (byteOfWord w 0) (byteOfWord w 1) (byteOfWord w 2) (byteOfWord w 3)
  refine word_ext_of_bytes fun k hk => ?_
  match k, hk with
  | 0, _ => exact h0
  | 1, _ => exact h1
  | 2, _ => exact h2
  | 3, _ => exact h3

/-- Replacing a byte of a word replaces that byte and no other (R62). -/
theorem byteOfWord_replaceByte (w : Word) {k k' : Nat} (c : Byte) (hk : k < 4) (hk' : k' < 4) :
    byteOfWord (replaceByte w k c) k' = if k' = k then c else byteOfWord w k' := by
  match k, k', hk, hk' with
  | 0, 0, _, _ | 0, 1, _, _ | 0, 2, _, _ | 0, 3, _, _
  | 1, 0, _, _ | 1, 1, _, _ | 1, 2, _, _ | 1, 3, _, _
  | 2, 0, _, _ | 2, 1, _, _ | 2, 2, _, _ | 2, 3, _, _
  | 3, 0, _, _ | 3, 1, _, _ | 3, 2, _, _ | 3, 3, _, _ =>
    simp only [byteOfWord, replaceByte]
    ext i hi
    simp [BitVec.getElem_extractLsb']
    rcases below_eight hi with rfl | rfl | rfl | rfl | rfl | rfl | rfl | rfl <;> simp

@[simp] theorem setBlockByte_length (v : List Word) (j : Nat) (c : Byte) :
    (setBlockByte v j c).length = v.length := by simp [setBlockByte]

theorem bytesOf_cons (w : Word) (ws : List Word) :
    bytesOf (w :: ws) = byteOfWord w 0 :: byteOfWord w 1 :: byteOfWord w 2 :: byteOfWord w 3 :: bytesOf ws := by
  simp [bytesOf]

@[simp] theorem overlay_getElem (u : List Word) (b : Vector Word 128) (i : Nat) (h : i < 128) :
    (overlay u b)[i] = u.getD i b[i] := by simp [overlay]

/-- The words a transform rewrites, and the words behind them as they were (R112, R113). -/
theorem onWords_toList {n : Nat} {f : List Word → List Word} {b : Vector Word 128} (hn : n ≤ 128)
    (hf : (f (b.toList.take n)).length = n) :
    (onWords n f b).toList = f (b.toList.take n) ++ b.toList.drop n := by
  apply List.ext_getElem
  · simp [hf]; omega
  · intro i h1 h2
    simp only [onWords, Vector.getElem_toList, overlay_getElem, List.getElem_append]
    split
    · next h => simp [List.getD_eq_getElem?_getD, h]
    · next h =>
      rw [List.getD_eq_getElem?_getD, List.getElem?_eq_none (by omega), Option.getD_none, List.getElem_drop]
      simp only [Vector.getElem_toList]
      congr 1
      omega

/-- A transform of the whole block (R145, R148). -/
theorem onWords_all {f : List Word → List Word} {b : Vector Word 128} (hf : (f b.toList).length = 128) :
    (onWords 128 f b).toList = f b.toList := by
  have ht : b.toList.take 128 = b.toList := List.take_of_length_le (by simp)
  rw [onWords_toList (Nat.le_refl 128) (by rw [ht]; exact hf), ht, List.drop_of_length_le (by simp), List.append_nil]

end Sys2Proof.Machine
end

