-- ==== Sys2Proof/Laws/Fields.lean ====
section
/-! SUPPORT. The fields of a command word and the encoder as arithmetic on the word's number, so that a proof about
them is linear arithmetic. -/

namespace Sys2Proof

theorem opField_toNat (w : Word) : (opField w).toNat = w.toNat % 16 := by simp [opField]

theorem rsv0Field_toNat (w : Word) : (rsv0Field w).toNat = w.toNat / 16 % 4096 := by
  simp [rsv0Field, Nat.shiftRight_eq_div_pow]

theorem argField_eq (w : Word) : argField w = w.toNat / 65536 % 1024 := by
  simp [argField, Nat.shiftRight_eq_div_pow]

theorem rsv1Field_toNat (w : Word) : (rsv1Field w).toNat = w.toNat / 67108864 := by
  have := w.isLt
  simp [rsv1Field, Nat.shiftRight_eq_div_pow]
  omega

theorem encode_toNat (i : Instr) : (encode i).toNat = argOf i % 1024 * 65536 + (opcode i).toNat := by
  have h := (opcode i).isLt
  simp only [encode, BitVec.toNat_append, BitVec.toNat_ofNat, Nat.shiftLeft_eq, Nat.zero_mod, Nat.zero_mul,
    Nat.zero_or, Nat.or_zero]
  rw [show argOf i % 2 ^ 10 * 2 ^ 12 * 2 ^ 4 = 2 ^ 4 * (argOf i % 2 ^ 10 * 2 ^ 12) by omega,
    ← Nat.two_pow_add_eq_or_of_lt h]
  omega

end Sys2Proof
end

