-- ==== Sys2Proof/Laws/PerInstr.lean ====
section
/-! SUPPORT. Facts about every command as syntax, one lemma for each constructor. -/

namespace Sys2Proof.Laws.Encoding

/-- The word of a command has its operation number in OP and zeros in the two reserved fields (R80, R81). -/
def Statement (i : Instr) : Prop :=
  opField (encode i) = opcode i ∧ rsv0Field (encode i) = 0 ∧ rsv1Field (encode i) = 0

/-- The statement holds of any command, whatever its operation and its argument. -/
theorem of_command (i : Instr) : Statement i := by
  have he := encode_toNat i
  have ho := (opcode i).isLt
  refine ⟨BitVec.eq_of_toNat_eq ?_, BitVec.eq_of_toNat_eq ?_, BitVec.eq_of_toNat_eq ?_⟩
  · rw [opField_toNat, he]; omega
  · rw [rsv0Field_toNat, he]; change _ = 0; omega
  · rw [rsv1Field_toNat, he]; change _ = 0; omega

theorem scramble (n : Nat) : Statement (.scramble n) := of_command _

theorem unscramble (n : Nat) : Statement (.unscramble n) := of_command _

theorem keyclr : Statement .keyclr := of_command _

theorem encopen : Statement .encopen := of_command _

theorem decopen : Statement .decopen := of_command _

theorem chunk (l : Nat) : Statement (.chunk l) := of_command _

theorem close : Statement .close := of_command _

end Sys2Proof.Laws.Encoding
end

