-- ==== Sys2Proof/Laws/Step.lean ====
section
/-! SUPPORT. What a write, an access and a step can do, each said once with its guards. -/

namespace Sys2Proof.Machine

/-- What a write of `v` to `wa` can make of the state `p` in which it stands on the port, with `rst` released. -/
inductive WriteEffect (wa : BitVec 8) (v : Word) (p : State) : State → Prop where
  | nothing : WriteEffect wa v p p
  | enable : regAt wa = .ctrl → WriteEffect wa v p { p with ie := v.getLsbD 0 }
  | acknowledge : regAt wa = .status → WriteEffect wa v p { p with done := false }
  | clear : regAt wa = .err → WriteEffect wa v p (clearError p)
  | reject (e : ErrorName) : WriteEffect wa v p (recordError e p)
  | started (i : Instr) : regAt wa = .cmd → decode v = .ok i → firstFailure (acceptanceChecks p i) = none →
      WriteEffect wa v p (start i p)
  | key (i : Fin 4) : regAt wa = .key i → p.busy = false → streamOpen p.stream = false →
      WriteEffect wa v p (writeKeyWord i v p)
  | buf (i : Fin 128) : regAt wa = .buf i → p.busy = false → WriteEffect wa v p (writeBufWord i v p)

/-- "Rules R181 to R195 are total" (R180): a write is answered, with one of those effects. -/
theorem writeReg_effect (wa : BitVec 8) (v : Word) (p : State) (hb : p.bus ≠ none) :
    ∃ t, writeReg wa v p = .next t ∧ WriteEffect wa v p t := by
  unfold writeReg
  cases hr : regAt wa with
  | ctrl => exact ⟨_, rfl, .enable hr⟩
  | status =>
    cases v.getLsbD 1 with
    | false => exact ⟨_, rfl, .nothing⟩
    | true => exact ⟨_, rfl, .acknowledge hr⟩
  | err => exact ⟨_, rfl, .clear hr⟩
  | cmd =>
    simp only [writeCmd]
    cases hd : decode v with
    | error e => exact ⟨_, rfl, .reject _⟩
    | ok i =>
      refine ⟨_, exec_offered i hb, ?_⟩
      rcases offer_cases i (acceptanceChecks p i) p with ⟨e, -, h⟩ | ⟨hf, h⟩
      · rw [h]; exact .reject e
      · rw [h]; exact .started i hr hd hf
  | outlen => exact ⟨_, rfl, .nothing⟩
  | blkcnt => exact ⟨_, rfl, .nothing⟩
  | key i =>
    refine ⟨_, rfl, ?_⟩
    unfold writeKey
    cases hbu : p.busy <;> cases ho : streamOpen p.stream <;> simp only [firstFailure, Bool.false_eq_true, ite_true, ite_false]
    · exact .key i hr hbu ho
    all_goals exact .reject _
  | buf i =>
    refine ⟨_, rfl, ?_⟩
    unfold writeBuf
    cases hbu : p.busy <;> simp only [firstFailure, Bool.false_eq_true, ite_true, ite_false]
    · exact .buf i hr hbu
    · exact .reject _
  | unmapped => exact ⟨_, rfl, .nothing⟩

/-- What a step of the host can be; `q` is the state with the turn used up. -/
inductive HostEffect (q : State) : State → Prop where
  | idle : q.script = [] → HostEffect q { q with bus := none }
  | read (wa : BitVec 8) (rest : List HostAction) : q.script = .access (.read wa) :: rest →
      HostEffect q (hostRead wa { q with script := rest, bus := some (.read wa) })
  | ignored (wa : BitVec 8) (v : Word) (rest : List HostAction) : q.script = .access (.write wa v) :: rest →
      q.rst = true → HostEffect q { q with script := rest, bus := some (.write wa v) }
  | write (wa : BitVec 8) (v : Word) (rest : List HostAction) (t : State) :
      q.script = .access (.write wa v) :: rest → q.rst = false →
      WriteEffect wa v { q with script := rest, bus := some (.write wa v) } t → HostEffect q t
  | polled (rest : List HostAction) : q.script = .wait :: rest →
      HostEffect q (hostRead 0x01 { q with bus := some (.read 0x01) })
  | waited (rest : List HostAction) : q.script = .wait :: rest →
      HostEffect q { hostRead 0x01 { q with bus := some (.read 0x01) } with script := rest }
  | irqWait (rest next : List HostAction) : q.script = .waitIrq :: rest →
      HostEffect q { q with bus := none, script := next }
  | reset (rest : List HostAction) : q.script = .rst true :: rest →
      HostEffect q (assertReset { q with script := rest })
  | release (rest : List HostAction) : q.script = .rst false :: rest →
      HostEffect q (releaseReset { q with bus := none, script := rest })

/-- A step of the host always reaches a next state (R180). -/
theorem hostStep_effect (q : State) : ∃ t, hostStep q = .next t ∧ HostEffect q t := by
  unfold hostStep
  match hs : q.script with
  | [] => exact ⟨{ q with bus := none }, by simp [hs], .idle hs⟩
  | .access (.read wa) :: rest => exact ⟨_, rfl, .read wa rest hs⟩
  | .access (.write wa v) :: rest =>
    cases hr : q.rst with
    | true => exact ⟨_, by simp [access, hr], .ignored wa v rest hs hr⟩
    | false =>
      obtain ⟨t, ht, he⟩ := writeReg_effect wa v { q with script := rest, bus := some (.write wa v) } (by simp)
      refine ⟨t, ?_, .write wa v rest t hs hr he⟩
      rw [← ht]; simp [access, hr]
  | .wait :: rest =>
    refine ⟨_, rfl, ?_⟩
    simp only [poll]
    split
    · exact .polled rest hs
    · exact .waited rest hs
  | .waitIrq :: rest => exact ⟨_, rfl, .irqWait rest _ hs⟩
  | .rst true :: rest => exact ⟨_, rfl, .reset rest hs⟩
  | .rst false :: rest => exact ⟨_, rfl, .release rest hs⟩

/-- The engine sequencer does nothing under reset or with nothing pending. -/
theorem engineStep_stalled {s : State} (h : s.rst = true ∨ s.pend = none) :
    engineStep s = .next { s with bus := none } := by
  unfold engineStep
  rcases h with h | h
  · simp [h]
  · cases hr : s.rst <;> simp [h]

/-- The engine sequencer performs the pending command with nothing on the port (R196). -/
theorem engineStep_performs {s : State} {i : Instr} (hr : s.rst = false) (hp : s.pend = some i) :
    engineStep s = exec i { s with bus := none } := by
  simp [engineStep, hr, hp]

/-- What a step can be. -/
inductive StepEffect (s : State) : State → Prop where
  | host (t : State) : nextTurn s = .host → HostEffect { s with schedule := s.schedule.tail } t → StepEffect s t
  | stalled : nextTurn s = .engine → (s.rst = true ∨ s.pend = none) →
      StepEffect s { s with schedule := s.schedule.tail, bus := none }
  | performed (i : Instr) (t : State) : nextTurn s = .engine → s.rst = false → s.pend = some i →
      exec i { s with schedule := s.schedule.tail, bus := none } = .next t → StepEffect s t

/-- Every step that reaches a next state is one of these (R67). -/
theorem step_effect {s t : State} (h : step s = .next t) : StepEffect s t := by
  unfold step at h
  cases ht : nextTurn s with
  | host =>
    obtain ⟨u, hu, he⟩ := hostStep_effect { s with schedule := s.schedule.tail }
    rw [ht] at h
    simp only [hu] at h
    cases h
    exact .host _ ht he
  | engine =>
    rw [ht] at h
    by_cases hr : s.rst = true ∨ s.pend = none
    · rw [engineStep_stalled (by exact hr)] at h
      cases h
      exact .stalled ht hr
    · push Not at hr
      obtain ⟨hr, hp⟩ := hr
      obtain ⟨i, hi⟩ := Option.ne_none_iff_exists'.1 hp
      have hr' : s.rst = false := by simpa using hr
      have he : engineStep { s with schedule := s.schedule.tail } =
          exec i { s with schedule := s.schedule.tail, bus := none } := engineStep_performs hr' hi
      exact .performed i t ht hr' hi (he ▸ h)

end Sys2Proof.Machine
end

