-- ==== Sys2Proof/Laws/Script.lean ====
section
/-! SUPPORT. What the host's compound accesses come to: a command written and performed, and words written to BUF. -/

namespace Sys2Proof.Machine

/-- A command that fails no check is started by the write that offers it (R188). -/
theorem access_command_started {i : Instr} {s : State} (hd : decode (encode i) = .ok i) (hr : s.rst = false)
    (hf : firstFailure (acceptanceChecks s i) = none) :
    access (.write 0x03 (encode i)) s = .next (start i { s with bus := some (.write 0x03 (encode i)) }) := by
  have hx : access (.write 0x03 (encode i)) s = writeCmd (encode i) { s with bus := some (.write 0x03 (encode i)) } := by
    simp [access, hr, writeReg, regAt]
  have hc : acceptanceChecks { s with bus := some (.write 0x03 (encode i)) } i = acceptanceChecks s i := by
    cases i <;> rfl
  rw [hx, writeCmd, hd]
  simp only
  rw [exec_offered _ (by simp), hc, offer, hf]

/-- Such a command is then performed with nothing on the port (R196). -/
theorem command_performs {i : Instr} {s : State} (hd : decode (encode i) = .ok i) (hr : s.rst = false)
    (hf : firstFailure (acceptanceChecks s i) = none) :
    command i s = exec i (start i { s with bus := none }) := by
  unfold command
  rw [access_command_started hd hr hf]
  exact engineStep_performs (s := start i { s with bus := some (.write 0x03 (encode i)) }) hr rfl

/-- A write to a word of BUF while nothing is pending (R194). -/
theorem access_write_buf {s : State} (i : Fin 128) (v : Word) (hr : s.rst = false) (hb : s.busy = false)
    (hi : regAt (BitVec.ofNat 8 (0x80 + i.val)) = .buf i) :
    access (.write (BitVec.ofNat 8 (0x80 + i.val)) v) s =
      .next (writeBufWord i v { s with bus := some (.write (BitVec.ofNat 8 (0x80 + i.val)) v) }) := by
  simp only [access, hr, writeReg, hi]
  simp [writeBuf, hb, firstFailure]

end Sys2Proof.Machine
end

