-- ==== Sys2Proof/Tests/Slice0.lean ====
section
/-! SUPPORT. The tests: expected results from the spec's tables, worked examples and vectors (95_test_vectors.md), each
on one step of a small state; and for every obligation with hypotheses a witness that meets them. -/

namespace Sys2Proof.Tests

open Sys2Proof.Machine

/-! Small states. -/

/-- After reset, with four zero key words and 128 zero words written, and no command since. -/
def idle : State := { State.reset with buf := Vector.replicate 128 0, keywr := 0b1111 }

/-- The same with another stream state. -/
def inStream (m : Stream) : State := { idle with stream := m }

/-- The state in which a write of `w` to CMD stands on the port. -/
def offering (w : Word) (s : State) : State := { s with bus := some (.write 0x03 w) }

/-- The state in which `i` is pending and the engine sequencer moves next. -/
def pending (i : Instr) (s : State) : State := { s with pend := some i, busy := true }

/-- The outcome is a next state with the property. -/
def ends (o : Host.Outcome State Fault Refusal) (p : State → Bool) : Bool :=
  match o with
  | .next t => p t
  | .fault _ => false
  | .refused _ => false

/-- The first words of BUF. -/
def firstWords (k : Nat) (s : State) : List Word := s.buf.toList.take k

/-! WellFormed: an argument that does not fit ARG is refused. -/

theorem test_scramble_ill_formed : Instr.wellFormed (.scramble 1024) = false := by decide
theorem test_unscramble_ill_formed : Instr.wellFormed (.unscramble 1024) = false := by decide
theorem test_chunk_ill_formed : Instr.wellFormed (.chunk 1024) = false := by decide
theorem test_largest_argument_well_formed : Instr.wellFormed (.chunk 1023) = true := by decide

/-! Decoding: words written out from the table of R87, RSV1 ARG RSV0 OP. -/

theorem test_decode_scramble : decode 0b000000_0000000010_000000000000_0001 = .ok (.scramble 2) := by decide
theorem test_decode_unscramble : decode 0b000000_1111111111_000000000000_0010 = .ok (.unscramble 1023) := by decide
theorem test_decode_keyclr : decode 0b000000_0000000000_000000000000_0011 = .ok .keyclr := by decide
theorem test_decode_encopen : decode 0b000000_0000000000_000000000000_0100 = .ok .encopen := by decide
theorem test_decode_decopen : decode 0b000000_0000000000_000000000000_0101 = .ok .decopen := by decide
theorem test_decode_chunk : decode 0b000000_1000000000_000000000000_0110 = .ok (.chunk 512) := by decide
theorem test_decode_close : decode 0b000000_0000000000_000000000000_0111 = .ok .close := by decide
theorem test_decode_zero : decode 0x00000000 = .error .reservedOp := by decide
theorem test_decode_reserved_op : decode 0x00000008 = .error .reservedOp := by decide
theorem test_decode_bit_26 : decode 0x04020001 = .error .reservedBits := by decide
theorem test_decode_bit_4 : decode 0x00020011 = .error .reservedBits := by decide
theorem test_decode_close_with_argument : decode 0x00010007 = .error .argNotZero := by decide
theorem test_decodeTableWord : decodeTableWord 32 0x01F40006 = some (.chunk 500) := by decide
theorem test_rows_are_disjoint :
    opcodeRows.Pairwise fun r r' => r.pattern &&& r'.mask ≠ r'.pattern ∨ r.mask ≠ r'.mask := by decide

/-! The cipher: T-E3, T-E1, T-E2, T-E4, T-E6, R115. -/

/-- The key KA of 95_test_vectors.md. -/
def ka : Vector Word 4 := #v[0x00112233, 0x44556677, 0x8899aabb, 0xccddeeff]

/-- The key KB of 95_test_vectors.md. -/
def kb : Vector Word 4 := #v[0x01234567, 0x89abcdef, 0xfedcba98, 0x76543210]

theorem test_mx_mixed : mx kb 0x12345678 0x9abcdef0 0xdaa66d2b 2 2 = 0xc944132b := by decide
theorem test_mx_both_sums_wrap :
    mx (Vector.replicate 4 0) 0xffffffff 0xffffffff 0x9e3779b9 0 2 = 0xb9c88657 := by decide
theorem test_mx_ka : mx ka 0x80000000 0x00000001 0x3c6ef372 3 0 = 0x8d4ce276 := by decide
theorem test_round_sums_and_selectors :
    (List.range 6).map (fun r => (roundSum (r + 1), selector (roundSum (r + 1)))) =
      [(0x9E3779B9, 2), (0x3C6EF372, 0), (0xDAA66D2B, 2), (0x78DDE6E4, 1), (0x1715609D, 3), (0xB54CDA56, 1)] := by
  decide
theorem test_scramble_v3 : scramble 3 ka [1, 2, 3] = [0x8057103a, 0x85cc2186, 0x5ac6d1ac] := by decide +kernel
theorem test_scramble_v5 :
    scramble 5 kb [0x11111111, 0x22222222, 0x33333333, 0x44444444, 0x55555555] =
      [0x848d23eb, 0xf2f9f385, 0x4b856c79, 0xe9b5cc84, 0xd409ba69] := by decide +kernel
theorem test_unscramble_v8 :
    unscramble 2 (Vector.replicate 4 0) [0, 0] = [0x2c0215e9, 0x18f7e575] := by decide +kernel
/-- The golden block T-E6, words 0 to 7. -/
theorem test_scramble_golden_block :
    (scramble 128 (Vector.replicate 4 0) (List.replicate 128 0)).take 8 =
      [0x54bbe5fe, 0xcc8252d1, 0x9c620b0c, 0x08c47a11, 0x8d87bd61, 0x3c6882d7, 0xc49d76e8, 0x5a5dd747] := by
  decide +kernel
/-- T-P6: the byte 0x41 padded and encrypted with KA, words 0 to 7. -/
theorem test_scramble_padded_byte :
    (scramble 128 ka (0x30303041 :: List.replicate 127 0x30303030)).take 8 =
      [0x21eaa61b, 0x86b41ef9, 0x785d3a73, 0x45f4b44f, 0x0af3d6b0, 0xa785b6a0, 0xb7ba1a5f, 0x14f196c7] := by
  decide +kernel
/-- T-E4, n = 128, words 120 to 127. -/
theorem test_unscramble_zero_block :
    (unscramble 128 (Vector.replicate 4 0) (List.replicate 128 0)).drop 120 =
      [0x75fa3b13, 0xd0cba173, 0x286fc711, 0x6d8ae42b, 0xe4dadf4b, 0x0d45d8d3, 0x49de332c, 0xfb260ddb] := by
  decide +kernel

/-! Bytes: T-P1, R62, R157. -/

theorem test_pad_1 :
    wordAt (pad 1 (List.replicate 128 0xAAAAAAAA)) 0 = 0x303030aa := by decide +kernel
theorem test_pad_500 :
    ((pad 500 (List.replicate 128 0xAAAAAAAA)).drop 124) = [0xaaaaaaaa, 0x30303030, 0x30303030, 0x30303030] := by
  decide +kernel
theorem test_words_of : wordsOf [0x00, 0x01, 0x02, 0x03, 0x04, 0x05, 0x06, 0x07] = [0x03020100, 0x07060504] := by decide
theorem test_bytes_of : bytesOf [0x54bbe5fe, 0xcc8252d1] = [0xfe, 0xe5, 0xbb, 0x54, 0xd1, 0x52, 0x82, 0xcc] := by decide
theorem test_key_text :
    keyOfText "0123456789abcdefFEDCBA9876543210".toList =
      some [0x01234567, 0x89abcdef, 0xfedcba98, 0x76543210] := by decide +kernel
theorem test_key_text_too_long : keyOfText "0123456789abcdefFEDCBA98765432100".toList = none := by decide +kernel
/-- R88, R89: `loadbytes` fills the last word with zeros; `chunk 3` is one write to CMD. -/
theorem test_script :
    expandAll [.loadbytes [0x41, 0x42, 0x43], .command (.chunk 3), .wait] =
      [.access (.write 0x80 0x00434241), .access (.write 0x03 0x00030006), .wait] := by decide

/-! The commands: T-C1, T-P7, T-P8, T-I1. Two for each: performed, and rejected or offered. -/

theorem test_scramble_performed :
    ends (step (pending (.scramble 2) { idle with buf := idle.buf.set 2 0x12345678 }))
      (fun t => firstWords 3 t == [0x053704ab, 0x575d8c80, 0x12345678] && statusWord t == 0x06) = true := by
  decide +kernel
theorem test_scramble_129_rejected :
    ends (exec (.scramble 129) (offering 0x00810001 idle)) (fun t => t.err == 0x06 && !t.busy) = true := by decide
theorem test_unscramble_performed :
    ends (step (pending (.unscramble 2) idle)) (fun t => firstWords 2 t == [0x2c0215e9, 0x18f7e575]) = true := by
  decide +kernel
theorem test_unscramble_without_key :
    ends (exec (.unscramble 1) (offering 0x00010002 { idle with keywr := 0b0111 }))
      (fun t => t.err == 0x03) = true := by decide
theorem test_keyclr_performed :
    ends (step (pending .keyclr { idle with key := kb }))
      (fun t => t.key.toList == [0, 0, 0, 0] && statusWord t == 0x00000002) = true := by decide
theorem test_keyclr_locked :
    ends (exec .keyclr (offering 0x3 (inStream .enc))) (fun t => t.err == 0x05) = true := by decide
theorem test_encopen_performed :
    ends (step (pending .encopen { inStream .ended with blkcnt := 3, outlen := 512 }))
      (fun t => statusWord t == 0x16 && t.blkcnt == 0 && t.outlen == 0) = true := by decide
theorem test_encopen_in_dec :
    ends (exec .encopen (offering 0x4 (inStream .dec))) (fun t => t.err == 0x04 && t.stream == .dec) = true := by decide
theorem test_decopen_performed :
    ends (step (pending .decopen idle)) (fun t => statusWord t == 0x26) = true := by decide
theorem test_decopen_accepted :
    ends (exec .decopen (offering 0x5 { idle with done := true }))
      (fun t => t.busy && !t.done && t.pend == some .decopen && t.stream == .idle) = true := by decide
theorem test_chunk_500_performed :
    ends (step (pending (.chunk 500) (inStream .enc)))
      (fun t => t.stream == .ended && t.outlen == 512 && t.blkcnt == 1 && statusWord t == 0x36) = true := by decide
theorem test_chunk_511_in_dec :
    ends (step (pending (.chunk 511) (inStream .dec)))
      (fun t => t.stream == .ended && t.outlen == 0 && firstWords 2 t == [0, 0] && t.err == 0) = true := by decide
theorem test_close_performed :
    ends (step (pending .close { inStream .dec with outlen := 512 }))
      (fun t => t.stream == .idle && t.outlen == 512) = true := by decide
theorem test_close_while_busy :
    ends (exec .close (offering 0x7 (pending .close idle))) (fun t => t.err == 0x01 && t.pend == some .close) = true := by
  decide

/-! Register accesses and reset: T-I1, T-R1, R182, R186. -/

theorem test_ctrl_reads_one : ends (access (.write 0x00 0xFFFFFFFF) idle) (fun t => ctrlWord t == 0x00000001) = true := by
  decide
theorem test_status_write_leaves_done :
    ends (access (.write 0x01 0x00000035) { idle with done := true }) (fun t => t.done) = true := by decide
theorem test_first_error_kept :
    ends (access (.write 0x03 0x00000008) { idle with err := 0x05 }) (fun t => t.err == 0x05) = true := by decide
theorem test_fourth_key_word :
    ends (access (.write 0x0B 0x76543210) { idle with keywr := 0b0111 }) (fun t => statusWord t == 0x00000004) = true := by
  decide
theorem test_key_write_in_end :
    ends (access (.write 0x08 0) { inStream .ended with key := kb }) (fun t => t.key[0] == 0 && keyValid t) = true := by
  decide
theorem test_unmapped_write : ends (access (.write 0x30 5) idle) (fun t => t.err == 0 && t.reads == []) = true := by decide
theorem test_irq_after_completion :
    ends (step (pending .close { idle with ie := true })) irq = true := by decide
theorem test_reset_abandons :
    ends (step { pending (.scramble 128) { idle with ie := true } with script := [.rst true], schedule := [.host] })
      (fun t => t.pend == none && !t.busy && !t.ie && t.rst) = true := by decide
/-- From reset with nothing placed no command runs (R252). -/
theorem test_reset_waits : ends (step State.reset) (fun t => t.pend == none && !t.busy && !t.done) = true := by decide
/-- The first step after reset runs the word given: SCRAMBLE 2 with no key is NOKEY (PRG4). -/
theorem test_withFetchWord :
    ends (step (State.reset.withFetchWord 32 0x00020001)) (fun t => t.err == 0x03) = true := by decide

/-! Witnesses: the hypotheses of each obligation are met. -/

/-- An encrypt stream is open, a CHUNK is pending, and the host polls for two turns before it is performed. -/
def duringChunk : State :=
  { pending (.chunk 512) (inStream .enc) with script := [.wait], schedule := [.host, .host] }

theorem witness_invariant_while_pending : Inv duringChunk where
  busy_iff_pend := by decide
  open_has_key := by decide
  outlen_legal := by decide
  err_legal := by decide
  pend_accepted := by intro i h; cases h; decide
  reset_held := by intro h; cases h

/-- StepKeepsTheInvariant, StepNeverStops, PendingCommandCompletes, KeyIsFixedWhileAStreamIsOpen (on the host's turn)
and BusyFreezesTheInputs -/
theorem witness_pending :
    Inv duringChunk ∧ duringChunk.pend ≠ none ∧ streamOpen duringChunk.stream = true ∧ duringChunk.busy = true ∧
      nextTurn duringChunk = .host ∧ (∀ rest, duringChunk.script ≠ .rst true :: rest) ∧
      (∃ t, step duringChunk = .next t) :=
  ⟨witness_invariant_while_pending, by decide, rfl, rfl, rfl, fun _ h => (by cases h), _, rfl⟩

/-- KeyIsFixedWhileAStreamIsOpen, on the engine sequencer's turn with a reset next in the host's list -/
theorem witness_completion_before_reset :
    let s := { duringChunk with script := [.rst true], schedule := [] }
    Inv s ∧ streamOpen s.stream = true ∧ ¬ (nextTurn s = .host ∧ ∃ rest, s.script = .rst true :: rest) ∧
      ∃ t, step s = .next t :=
  ⟨⟨by decide, by decide, by decide, by decide, fun _ h => (by cases h; decide), fun h => (by cases h)⟩, rfl,
    fun h => (by cases h.1), _, rfl⟩

/-- WaitEndsWithTheCompletion, with a command pending and with none -/
theorem witness_wait :
    (Inv duringChunk ∧ duringChunk.rst = false ∧ nextTurn duringChunk = .host ∧ duringChunk.script = .wait :: []) ∧
      (let s := { idle with script := [.wait] }
       Inv s ∧ s.rst = false ∧ nextTurn s = .host ∧ s.script = .wait :: [] ∧ s.pend = none) :=
  ⟨⟨witness_invariant_while_pending, rfl, rfl, rfl⟩,
    ⟨by decide, by decide, by decide, by decide, fun _ h => (by cases h), fun h => (by cases h)⟩, rfl, rfl, rfl, rfl⟩

/-- DecodeOfEncodeIsTheCommand, EncodeOfDecodeIsTheWord, DecoderAcceptsExactlyTheOpcodeTable and
FetchWordStepRunsTheCommand -/
theorem witness_well_formed :
    Instr.wellFormed (.scramble 0) = true ∧ Instr.wellFormed (.unscramble 1023) = true ∧
      Instr.wellFormed .keyclr = true ∧ Instr.wellFormed (.chunk 1023) = true ∧
      decode 0x03FF0006 = .ok (.chunk 1023) ∧ decode 0x00000001 = .ok (.scramble 0) := by decide

/-- EncodingIsMatchAndShiftedOperand: the least and the greatest operand -/
theorem witness_operands : 0 < 1024 ∧ 1023 < 1024 ∧ (0x03FF0001 : Word) &&& 0xFC00FFFF = 0x00000001 := by decide +kernel

/-- ReservedWordsAreRejected, each kind of word at its bounds -/
theorem witness_reserved_words :
    idle.rst = false ∧ rsv0Field 0x00000010 ≠ 0 ∧ rsv0Field 0x00008001 ≠ 0 ∧ rsv1Field 0x04000001 ≠ 0 ∧
      rsv1Field 0x80000001 ≠ 0 ∧ opField 0x00000000 = 0x0 ∧ 0x8 ≤ (opField 0x00000008).toNat ∧
      0x8 ≤ (opField 0x0000000F).toNat := by decide

/-- ArgumentsOutOfPlaceAreRejected: the fields of words at the bounds of each clause -/
theorem witness_arguments_out_of_place :
    (opField 0x00010003 = 0x3 ∧ argField 0x00010003 = 1) ∧ (opField 0x03FF0007 = 0x7 ∧ argField 0x03FF0007 = 1023) ∧
      (opField 0x00010001 = 0x1 ∧ argField 0x00010001 = 1) ∧ (opField 0x00810002 = 0x2 ∧ argField 0x00810002 = 129) ∧
      (opField 0x02010006 = 0x6 ∧ argField 0x02010006 = 513) ∧ rsv0Field 0x02010006 = 0 ∧ rsv1Field 0x03FF0007 = 0 ∧
      idle.rst = false ∧ idle.busy = false := by decide

/-- StepRunsTheCommandWritten -/
theorem witness_command_written :
    let s := { idle with script := [.access (.write 0x03 0x00020001)] }
    nextTurn s = .host ∧ s.rst = false ∧ s.script = .access (.write 0x03 0x00020001) :: [] ∧
      decode 0x00020001 = .ok (.scramble 2) := by decide

/-- StepPerformsThePendingCommand -/
theorem witness_command_pending :
    nextTurn (pending (.scramble 2) idle) = .engine ∧ (pending (.scramble 2) idle).rst = false ∧
      (pending (.scramble 2) idle).pend = some (.scramble 2) := by decide

/-- ScrambleIsThePseudocode, UnscrambleIsThePseudocode, NeighboursAreCircular, UnscrambleInvertsScramble,
ScrambleInvertsUnscramble, InverseLoopRunsQTimes and ScheduleOfRounds, at both ends of 2..128 -/
theorem witness_blocks :
    (2 ≤ 2 ∧ (List.replicate 2 (0 : Word)).length = 2 ∧ roundCount 2 ≤ 32 ∧ 32 ≤ roundCount 2 ∧ 0 ≤ roundCount 2 ∧ 1 < 2) ∧
      (2 ≤ 128 ∧ (List.replicate 128 (0 : Word)).length = 128 ∧ roundCount 128 ≤ 6 ∧ 53 ≤ 128) := by decide +kernel

/-- CommandAcceptance, LowestErrorCodeIsReported and the register statements: `rst` is released, in every stream state,
busy or not; the command checks that fail and those that do not -/
theorem witness_released :
    (∀ m ∈ [Stream.idle, .enc, .dec, .ended],
      (inStream m).rst = false ∧ (inStream m).busy = false ∧ (inStream m).err = 0x00 ∧
        (pending .close (inStream m)).rst = false ∧ (pending .close (inStream m)).busy = true) ∧
    commandFails (some (.scramble 129)) idle .badarg = true ∧ commandFails none idle .illegal = true ∧
    commandFails (some .keyclr) (inStream .dec) .keylock = true := by decide

/-- ScrambleCommand, UnscrambleCommand, KeyclrCommand, OpenCommands, ChunkAcceptance, CloseCommand and
UnacceptedCommandsStop: a port with an access and one without; the ends of the operand ranges -/
theorem witness_port :
    (offering 0x00020001 idle).bus ≠ none ∧ (offering 0x00020001 idle).busy = false ∧ idle.bus = none ∧
      (2 ≤ 2 ∧ 2 ≤ 128) ∧ (2 ≤ 128 ∧ 128 ≤ 128) ∧ 1 < 2 ∧ 128 < 129 ∧ 512 < 513 ∧ 512 ≤ 512 ∧
      idle.stream = .idle ∧ (inStream .ended).stream = .ended := by decide

/-- EncryptFullChunk, EncryptShortChunk, EncryptEmptyChunk, DecryptFullChunk and DecryptShortChunk -/
theorem witness_chunks :
    (inStream .enc).bus = none ∧ (inStream .enc).stream = .enc ∧ (0 < 1 ∧ 1 < 512) ∧ (0 < 511 ∧ 511 < 512) ∧
      (inStream .dec).bus = none ∧ (inStream .dec).stream = .dec ∧ 0 < 512 := by decide

/-- StreamMovesByTheTable: a step, and each kind of rejected command -/
theorem witness_stream_moves :
    (∃ t, step (pending (.chunk 0) (inStream .enc)) = .next t) ∧ (∃ t, step idle = .next t) ∧
      (offering 0x4 (inStream .enc)).bus ≠ none ∧ (offering 0x4 (inStream .enc)).busy = false ∧
      keyValid (offering 0x4 (inStream .enc)) = true ∧ (offering 0x4 (inStream .ended)).stream = .ended :=
  ⟨⟨_, rfl⟩, ⟨_, rfl⟩, by decide, by decide, by decide, by decide⟩

/-- FrameOfEveryStep: each register does change over some step -/
theorem witness_frame :
    ends (step (pending .encopen { idle with outlen := 512, blkcnt := 3 }))
      (fun t => t.outlen != 512 && t.blkcnt != 3 && t.stream != .idle) = true ∧
    ends (step { idle with script := [.access (.write 0x08 1)] }) (fun t => t.key.toList != idle.key.toList) = true ∧
    ends (step { idle with script := [.access (.write 0x80 1)] }) (fun t => firstWords 1 t != [0]) = true := by decide

/-- PaddingOfAChunk, at both ends, with two blocks that differ behind the chunk -/
theorem witness_padding :
    (0 < 1 ∧ 1 < 512) ∧ (0 < 511 ∧ 511 < 512) ∧ (List.replicate 128 (0 : Word)).length = 128 ∧
      ((List.replicate 128 (0 : Word)).set 127 1).length = 128 ∧
      (∀ j < 4, blockByte ((List.replicate 128 (0 : Word)).set 127 1) j = blockByte (List.replicate 128 (0 : Word)) j) ∧
      1 / 4 < 1 ∧ 511 / 4 < 128 := by decide +kernel

/-- ByteViewOfTheBlock, at the first and the last byte -/
theorem witness_byte_view :
    0 < 4 * (List.replicate 128 (0 : Word)).length ∧ 511 < 4 * (List.replicate 128 (0 : Word)).length ∧
      (List.replicate 8 (0x41 : Byte)).length = 4 * 2 ∧ 1 < 2 ∧ 3 < 4 := by decide +kernel

/-- ChunkOutputIsTheChunkTransformed, in both stream modes -/
theorem witness_chunk_output :
    (∃ t, (inStream .enc).bus = none ∧ exec (.chunk 1) (inStream .enc) = .next t ∧ t.outlen = 512) ∧
      (∃ t, (inStream .dec).bus = none ∧ exec (.chunk 512) (inStream .dec) = .next t ∧ t.outlen = 512) :=
  ⟨⟨_, rfl, rfl, rfl⟩, ⟨_, rfl, rfl, rfl⟩⟩

/-- EncryptStreamIsWhatTheHostWrites and DecryptStreamIsWhatTheHostWrites -/
theorem witness_stream_ready : StreamReady idle := ⟨rfl, rfl, rfl, rfl, rfl, rfl⟩

/-- StreamRoundTrip: two equal blocks of plaintext -/
theorem witness_equal_blocks :
    let d := List.replicate 1024 (0 : Byte)
    512 * (0 + 1) ≤ d.length ∧ 512 * (1 + 1) ≤ d.length ∧ chunkAt d 0 = chunkAt d 1 := by decide +kernel

/-- EqualInputsGiveEqualOutputs: two states that differ behind the words transformed -/
theorem witness_equal_inputs :
    let s := { idle with buf := idle.buf.set 2 7 }
    s.bus = none ∧ idle.bus = none ∧ s.key = idle.key ∧ firstWords 2 s = firstWords 2 idle ∧
      Instr.scramble 2 ∈ [Instr.scramble 2, Instr.unscramble 2] := by decide

/-- UnmappedWordsAreInert and AddressMap, at the ends of the holes -/
theorem witness_unmapped :
    ∀ wa ∈ [(0x06 : BitVec 8), 0x07, 0x0C, 0x7F],
      (0x06 ≤ wa.toNat ∧ wa.toNat ≤ 0x07) ∨ (0x0C ≤ wa.toNat ∧ wa.toNat ≤ 0x7F) := by decide

/-- FirstErrorIsKept: with no error recorded, and with one -/
theorem witness_errors : idle.err = 0x00 ∧ { idle with err := 0x06 }.err ≠ 0x00 := by decide

/-- InterruptOutput: a command accepted while DONE = 1 raised the line -/
theorem witness_interrupt :
    let s := offering 0x7 { idle with ie := true, done := true }
    s.rst = false ∧ irq s = true ∧ s.bus ≠ none ∧ s.err = 0x00 ∧ ∃ t, exec .close s = .next t ∧ t.pend ≠ s.pend :=
  ⟨rfl, rfl, by decide, rfl, _, rfl, by decide⟩

/-- ResetValues: `rst` asserted while a command is pending -/
theorem witness_reset :
    let s := { duringChunk with script := [.rst true] }
    nextTurn s = .host ∧ s.script = .rst true :: [] ∧ s.pend ≠ none := by decide

/-- AccessesAreIgnoredInReset -/
theorem witness_in_reset :
    let s := { assertReset idle with script := [.rst false] }
    s.rst = true ∧ nextTurn s = .host ∧ s.script = .rst false :: [] := by decide

end Sys2Proof.Tests
end

section
/-! The proofs about the state: reset, the invariant, the interrupt output, and the step that runs a command word. -/

namespace Sys2Proof.Machine

variable {s t p : State}

/-! What a completed CHUNK and a whole step can do to the registers of the block. -/

/-- What the completion of CHUNK L can make of `s`, in either stream mode (R145 to R149). -/
inductive ChunkEffect (l : Nat) (s : State) : State → Prop where
  | nothing : l < blockBytes → ChunkEffect l s (endStream (outputNothing s))
  | last (b : Vector Word 128) : l < blockBytes → ChunkEffect l s (endStream (outputBlock b s))
  | full (b : Vector Word 128) : blockBytes ≤ l → ChunkEffect l s (outputBlock b s)

theorem encryptStep_effect (l : Nat) (s : State) : ChunkEffect l s (encryptStep l s) := by
  unfold encryptStep
  split
  next h0 => subst h0; exact .nothing (by decide)
  next =>
    split
    next hl => exact .last _ hl
    next hl => exact .full _ (Nat.le_of_not_lt hl)

theorem decryptStep_effect (l : Nat) (s : State) : ChunkEffect l s (decryptStep l s) := by
  unfold decryptStep
  split
  next hl => exact .nothing hl
  next hl => exact .full _ (Nat.le_of_not_lt hl)

/-- A chunk is transformed under the key and leaves the key alone (R145 to R149). -/
theorem ChunkEffect.key_unchanged {l : Nat} (h : ChunkEffect l s t) : t.key = s.key ∧ t.keywr = s.keywr := by
  cases h <;> exact ⟨rfl, rfl⟩

/-- KEYCLR is the only command whose completion changes the key (R197). -/
theorem exec_performed_key_unchanged {i : Instr} (hb : s.bus = none) (hx : exec i s = .next t) (hi : i ≠ .keyclr) :
    t.key = s.key ∧ t.keywr = s.keywr := by
  rcases exec_performed_cases hb hx with ⟨_, -, -, rfl⟩ | ⟨_, -, -, rfl⟩ | ⟨hk, -⟩ | ⟨-, rfl⟩ | ⟨-, rfl⟩ |
    ⟨l, -, -, -, rfl⟩ | ⟨l, -, -, -, rfl⟩ | ⟨-, rfl⟩
  · exact ⟨rfl, rfl⟩
  · exact ⟨rfl, rfl⟩
  · exact absurd hk hi
  · exact ⟨rfl, rfl⟩
  · exact ⟨rfl, rfl⟩
  · exact (encryptStep_effect l s).key_unchanged
  · exact (decryptStep_effect l s).key_unchanged
  · exact ⟨rfl, rfl⟩

/-- What a step can do to the registers of the block; `p` is the state it starts from, up to what belongs to the port,
the host agent and the free values. -/
inductive BlockEffect (s : State) : State → Prop where
  | unchanged (t : State) : SameBlock s t → BlockEffect s t
  | write (wa : BitVec 8) (v : Word) (p t : State) : SameBlock s p → nextTurn s = .host → p.rst = false →
      WriteEffect wa v p t → BlockEffect s t
  | reset (p : State) : SameBlock s p → nextTurn s = .host → (∃ rest, s.script = .rst true :: rest) →
      BlockEffect s (assertReset p)
  | release (p : State) : SameBlock s p → nextTurn s = .host → BlockEffect s (releaseReset p)
  | completed (i : Instr) (p t : State) : SameBlock s p → nextTurn s = .engine → p.rst = false → p.bus = none →
      p.pend = some i → exec i p = .next t → BlockEffect s t

/-- Every step that reaches a next state is one of these (R67). -/
theorem step_blockEffect (h : step s = .next t) : BlockEffect s t := by
  cases step_effect h with
  | stalled => exact .unchanged _ (by constructor <;> rfl)
  | performed i _ ht hr hp hx =>
    exact .completed i { s with schedule := s.schedule.tail, bus := none } _ (by constructor <;> rfl) ht hr rfl hp hx
  | host _ ht he =>
    cases he with
    | write wa v rest _ _ hr hw =>
      exact .write wa v { s with schedule := s.schedule.tail, script := rest, bus := some (.write wa v) } _
        (by constructor <;> rfl) ht hr hw
    | reset rest hs => exact .reset _ (by constructor <;> rfl) ht ⟨rest, hs⟩
    | release => exact .release _ (by constructor <;> rfl) ht
    | _ => exact .unchanged _ (by constructor <;> rfl)

/-! The invariant of R32. -/

/-- What acceptance checked of a command lies in STREAM and KEYWR alone. -/
theorem accepted_congr {i : Instr} (hm : t.stream = s.stream) (hk : t.keywr = s.keywr) :
    accepted i t = accepted i s := by
  cases i <;> simp [accepted, keyValid, hm, hk]

/-- A command that fails no check of R188 is one that acceptance lets through. -/
theorem accepted_of_passed {i : Instr} (h : firstFailure (acceptanceChecks s i) = none) : accepted i s = true := by
  rw [firstFailure_eq_none] at h
  cases i <;> simp_all [acceptanceChecks, transformChecks, openChecks, accepted]

theorem atResetValues_reset : AtResetValues State.reset := by constructor <;> rfl

theorem atResetValues_assertReset (s : State) : AtResetValues (assertReset s) := by constructor <;> rfl

theorem AtResetValues.of_sameBlock (h : AtResetValues s) (b : SameBlock s t) : AtResetValues t where
  ie := b.ie.trans h.ie
  busy := b.busy.trans h.busy
  done := b.done.trans h.done
  stream := b.stream.trans h.stream
  err := b.err.trans h.err
  outlen := b.outlen.trans h.outlen
  blkcnt := b.blkcnt.trans h.blkcnt
  key := b.key.trans h.key
  keywr := b.keywr.trans h.keywr
  pend := b.pend.trans h.pend

/-- The reset values meet the invariant, with `rst` asserted or released. -/
theorem AtResetValues.inv (h : AtResetValues s) : Inv s where
  busy_iff_pend := by simp [h.busy, h.pend]
  open_has_key := by simp [h.stream, streamOpen]
  outlen_legal := .inl h.outlen
  err_legal := by simp [h.err]
  pend_accepted := by simp [h.pend]
  reset_held := fun _ => h

/-- With `rst` released the invariant speaks only of BUSY, PEND, STREAM, KEYWR, OUTLEN and ERR, and of ERR only that
its code is one of R220. -/
theorem Inv.of_unchanged (h : Inv s) (hr : t.rst = false) (hb : t.busy = s.busy) (hp : t.pend = s.pend)
    (hm : t.stream = s.stream) (hk : t.keywr = s.keywr) (ho : t.outlen = s.outlen) (he : t.err.toNat ≤ 6) : Inv t where
  busy_iff_pend := by rw [hb, hp]; exact h.busy_iff_pend
  open_has_key := by rw [hm, keyValid, hk]; exact h.open_has_key
  outlen_legal := by rw [ho]; exact h.outlen_legal
  err_legal := he
  pend_accepted i hi := by rw [accepted_congr hm hk]; exact h.pend_accepted i (hp ▸ hi)
  reset_held := by simp [hr]

/-- The invariant speaks of the block alone. -/
theorem Inv.of_sameBlock (h : Inv s) (b : SameBlock s t) : Inv t := by
  cases hr : t.rst with
  | true => exact ((h.reset_held (b.rst ▸ hr)).of_sameBlock b).inv
  | false => exact h.of_unchanged hr b.busy b.pend b.stream b.keywr b.outlen (b.err ▸ h.err_legal)

/-- A command that passes every check starts, and BUSY = 1 with it pending (R188). -/
theorem inv_start {i : Instr} (h : Inv s) (hr : s.rst = false) (hf : firstFailure (acceptanceChecks s i) = none) :
    Inv (start i s) where
  busy_iff_pend := by simp
  open_has_key := h.open_has_key
  outlen_legal := h.outlen_legal
  err_legal := h.err_legal
  pend_accepted j hj := by
    cases hj
    exact (accepted_congr (start_stream s i) (start_keywr s i)).trans (accepted_of_passed hf)
  reset_held := by simp [hr]

/-- A key word is written only while the block is idle and no stream is open, so nothing relies on KEYV (R192). -/
theorem inv_writeKeyWord (h : Inv s) (hr : s.rst = false) (hb : s.busy = false) (ho : streamOpen s.stream = false)
    (i : Fin 4) (v : Word) : Inv (writeKeyWord i v s) where
  busy_iff_pend := h.busy_iff_pend
  open_has_key := fun hm => absurd (ho.symm.trans hm) Bool.false_ne_true
  outlen_legal := h.outlen_legal
  err_legal := h.err_legal
  pend_accepted j hj := by
    have hbusy : s.busy = true := h.busy_iff_pend.2 (by rw [show s.pend = some j from hj]; simp)
    exact absurd (hb.symm.trans hbusy) Bool.false_ne_true
  reset_held := by simp [hr]

/-- An error is recorded with a code of R220. -/
theorem Inv.recordError_err_legal (h : Inv s) (e : ErrorName) : (recordError e s).err.toNat ≤ 6 := by
  rw [recordError_err]
  split
  · exact errorCode_le e
  · exact h.err_legal

/-- A write to a register keeps the invariant, whatever its effect. -/
theorem WriteEffect.inv {wa : BitVec 8} {v : Word} (hw : WriteEffect wa v p t) (h : Inv p) (hr : p.rst = false) :
    Inv t := by
  cases hw with
  | nothing => exact h
  | enable => exact h.of_unchanged hr rfl rfl rfl rfl rfl h.err_legal
  | acknowledge => exact h.of_unchanged hr rfl rfl rfl rfl rfl h.err_legal
  | clear => exact h.of_unchanged hr rfl rfl rfl rfl rfl (Nat.zero_le 6)
  | reject e =>
    exact h.of_unchanged (by simpa using hr) (by simp) (by simp) (by simp) (by simp) (by simp)
      (h.recordError_err_legal e)
  | started i _ _ hf => exact inv_start h hr hf
  | key i _ hb ho => exact inv_writeKeyWord h hr hb ho i v
  | buf => exact h.of_unchanged hr rfl rfl rfl rfl rfl h.err_legal

theorem keyValid_iff (s : State) : keyValid s = true ↔ s.keywr = 0b1111 := beq_iff_eq

theorem Inv.open_keywr (h : Inv s) (ho : streamOpen s.stream = true) : s.keywr = 0b1111 :=
  (keyValid_iff s).1 (h.open_has_key ho)

/-- After a completion nothing is pending, so the invariant asks only for the key of an open stream and for legal
OUTLEN and ERR (R196). -/
theorem inv_finish (hr : s.rst = false) (hk : streamOpen s.stream = true → s.keywr = 0b1111)
    (ho : s.outlen = 0 ∨ s.outlen = 512) (he : s.err.toNat ≤ 6) : Inv (finish s) where
  busy_iff_pend := by simp
  open_has_key hm := (keyValid_iff _).2 (hk hm)
  outlen_legal := ho
  err_legal := he
  pend_accepted := by simp
  reset_held := by simp [hr]

/-- The completion of a chunk outputs nothing or 512 bytes, and leaves the stream as it was or ends it. -/
theorem ChunkEffect.finish_inv {l : Nat} (hc : ChunkEffect l s t) (h : Inv s) (hr : s.rst = false) :
    Inv (finish t) := by
  cases hc with
  | nothing => exact inv_finish hr (fun hm => by cases hm) (.inl rfl) h.err_legal
  | last b => exact inv_finish hr (fun hm => by cases hm) (.inr rfl) h.err_legal
  | full b => exact inv_finish hr h.open_keywr (.inr rfl) h.err_legal

/-- The completion of the pending command keeps the invariant: ENCOPEN and DECOPEN were accepted with KEYV = 1, and
KEYCLR with no stream open. -/
theorem Inv.performed {i : Instr} (h : Inv s) (hr : s.rst = false) (hb : s.bus = none) (hp : s.pend = some i)
    (hx : exec i s = .next t) : Inv t := by
  have ha := h.pend_accepted i hp
  rcases exec_performed_cases hb hx with ⟨n, rfl, -, rfl⟩ | ⟨n, rfl, -, rfl⟩ | ⟨rfl, rfl⟩ | ⟨rfl, rfl⟩ | ⟨rfl, rfl⟩ |
    ⟨l, rfl, -, -, rfl⟩ | ⟨l, rfl, -, -, rfl⟩ | ⟨rfl, rfl⟩
  · exact inv_finish hr h.open_keywr h.outlen_legal h.err_legal
  · exact inv_finish hr h.open_keywr h.outlen_legal h.err_legal
  · have hclosed : streamOpen s.stream = false := by simpa [accepted] using ha
    exact inv_finish hr (fun hm => absurd (hclosed.symm.trans hm) Bool.false_ne_true) h.outlen_legal h.err_legal
  · obtain ⟨hkey, -⟩ : keyValid s = true ∧ streamOpen s.stream = false := by simpa [accepted] using ha
    exact inv_finish hr (fun _ => (keyValid_iff s).1 hkey) (.inl rfl) h.err_legal
  · obtain ⟨hkey, -⟩ : keyValid s = true ∧ streamOpen s.stream = false := by simpa [accepted] using ha
    exact inv_finish hr (fun _ => (keyValid_iff s).1 hkey) (.inl rfl) h.err_legal
  · exact (encryptStep_effect l s).finish_inv h hr
  · exact (decryptStep_effect l s).finish_inv h hr
  · exact inv_finish hr (fun hm => by cases hm) h.outlen_legal h.err_legal

/-- Settles O55: every effect a step can have on the block keeps the invariant. -/
theorem stepKeepsTheInvariant : Obligations.StepKeepsTheInvariant := by
  intro s t h hstep
  cases step_blockEffect hstep with
  | unchanged _ b => exact h.of_sameBlock b
  | write wa v p _ b _ hr hw => exact hw.inv (h.of_sameBlock b) hr
  | reset p => exact (atResetValues_assertReset p).inv
  | release p b =>
    have hp := h.of_sameBlock b
    exact hp.of_unchanged rfl rfl rfl rfl rfl rfl hp.err_legal
  | completed i p _ b _ hr hb hp hx => exact (h.of_sameBlock b).performed hr hb hp hx

/-- Settles O54: the reset values meet the invariant. -/
theorem resetMeetsTheInvariant : Obligations.ResetMeetsTheInvariant := atResetValues_reset.inv

/-! The key while a stream is open. -/

/-- While a stream is open no write changes the key: a write to KEY is rejected with KEYLOCK (R192). -/
theorem WriteEffect.key_unchanged {wa : BitVec 8} {v : Word} (hw : WriteEffect wa v p t)
    (ho : streamOpen p.stream = true) : t.key = p.key ∧ t.keywr = p.keywr := by
  cases hw with
  | reject e => simp
  | key _ _ _ hclosed => exact absurd (hclosed.symm.trans ho) Bool.false_ne_true
  | _ => exact ⟨rfl, rfl⟩

/-- Settles O59: a write to KEY is rejected while a stream is open, and a pending KEYCLR was accepted with none open. -/
theorem keyIsFixedWhileAStreamIsOpen : Obligations.KeyIsFixedWhileAStreamIsOpen := by
  intro s t h ho hnoReset hstep
  cases step_blockEffect hstep with
  | unchanged _ b => exact ⟨b.key, b.keywr⟩
  | write wa v p _ b _ _ hw =>
    rw [← b.key, ← b.keywr]
    exact hw.key_unchanged (b.stream ▸ ho)
  | reset p _ ht hs => exact absurd ⟨ht, hs⟩ hnoReset
  | release p b => exact ⟨b.key, b.keywr⟩
  | completed i p _ b _ _ hb hp hx =>
    have hi : i ≠ .keyclr := by
      rintro rfl
      have ha := h.pend_accepted .keyclr (b.pend ▸ hp)
      simp [accepted, ho] at ha
    rw [← b.key, ← b.keywr]
    exact exec_performed_key_unchanged hb hx hi

/-! The interrupt output. -/

/-- The level of `irq` (R33). -/
theorem irq_iff (s : State) : irq s = true ↔ s.ie = true ∧ (s.done = true ∨ s.err ≠ 0x00) := by simp [irq]

theorem irq_eq_false (hd : s.done = false) (he : s.err = 0x00) : irq s = false := by simp [irq, hd, he]

/-- A command offered on the port that changes PEND was started: rejection changes ERR alone (R188). -/
theorem exec_offered_eq_start {i : Instr} (hb : s.bus ≠ none) (hx : exec i s = .next t) (hp : t.pend ≠ s.pend) :
    t = start i s := by
  rw [exec_offered i hb] at hx
  cases hx
  rcases offer_cases i (acceptanceChecks s i) s with ⟨e, -, h⟩ | ⟨-, h⟩
  · exact absurd (by rw [h, recordError_pend]) hp
  · exact h

/-- Settles O51: acceptance clears DONE, and the two writes clear DONE and ERR. -/
theorem interruptOutput : Obligations.InterruptOutput := by
  refine fun s => ⟨irq_iff s, fun hr => ?_, fun i t hb hx hp he => ?_⟩
  · have hstatus : access (.write 0x01 0x00000002) s =
        .next { s with bus := some (.write 0x01 0x00000002), done := false } := by
      simp [access, hr, writeReg, regAt]
    have herr : access (.write 0x02 0) { s with bus := some (.write 0x01 0x00000002), done := false } =
        .next (clearError { s with bus := some (.write 0x02 0), done := false }) := by
      simp [access, hr, writeReg, regAt]
    exact ⟨_, _, hstatus, herr, irq_eq_false rfl rfl⟩
  · rw [exec_offered_eq_start hb hx hp]
    exact irq_eq_false rfl he

/-! The step that runs a command word. -/

theorem argOf_lt {i : Instr} (h : i.wellFormed = true) : argOf i < 1024 := by
  cases i <;> simp_all [Instr.wellFormed, argFits, argOf]

theorem argField_encode {i : Instr} (h : i.wellFormed = true) : argField (encode i) = argOf i := by
  have harg := argOf_lt h
  have hop := (opcode i).isLt
  rw [argField_eq, encode_toNat]
  omega

/-- Decoding reads back what a well-formed command was encoded from (R86). -/
theorem decode_encode {i : Instr} (h : i.wellFormed = true) : decode (encode i) = .ok i := by
  obtain ⟨hop, hrsv0, hrsv1⟩ := Laws.Encoding.of_command i
  rw [decode, if_neg (by simp [hrsv0, hrsv1]), hop, argField_encode h]
  cases i <;> rfl

/-- With `rst` released a write to CMD hands the decoded command to its meaning, the write on the port (R188). -/
theorem access_write_cmd {w : Word} {i : Instr} (hr : s.rst = false) (hd : decode w = .ok i) :
    access (.write 0x03 w) s = exec i { s with bus := some (.write 0x03 w) } := by
  simp [access, hr, writeReg, regAt, writeCmd, hd]

/-- The step after `withFetchWord` is the write of the word to CMD (notes/assumptions/3.md). -/
theorem step_withFetchWord (s : State) (w : Word) :
    step (s.withFetchWord 32 w.toNat) = access (.write 0x03 w) { s with rst := false } := by
  have hw : BitVec.ofNat 32 (w.toNat % 2 ^ 32) = w := by
    rw [Nat.mod_eq_of_lt w.isLt, BitVec.ofNat_toNat, BitVec.setWidth_eq]
  rw [State.withFetchWord, hw]
  rfl

/-- Settles O10: the word written decodes to the command. -/
theorem fetchWordStepRunsTheCommand : Obligations.FetchWordStepRunsTheCommand := by
  intro s i h
  rw [step_withFetchWord, access_write_cmd rfl (decode_encode h)]

end Sys2Proof.Machine
end

section
/-! The proofs about addresses and bytes: the byte view of the block, the address map, reads, the polls of `wait`, and
the step that makes an access. -/

namespace Sys2Proof.Machine

variable {s : State}

/-! The byte view of the block (R62). -/

/-- `setbyte` changes the byte it names and no other (R62). -/
theorem blockByte_setBlockByte {v : List Word} {j : Nat} (k : Nat) (c : Byte) (hj : j < 4 * v.length) :
    blockByte (setBlockByte v j c) k = if k = j then c else blockByte v k := by
  rw [blockByte, setBlockByte, wordAt_set _ _ (by omega)]
  by_cases hword : j / 4 = k / 4
  · rw [if_pos hword, byteOfWord_replaceByte _ c (by omega) (by omega)]
    have hbyte : k % 4 = j % 4 ↔ k = j := by omega
    simp only [hbyte, blockByte, hword]
  · have hkj : k ≠ j := by rintro rfl; exact hword rfl
    rw [if_neg hword, if_neg hkj, blockByte]

/-- A sequence that fills n + 1 words is four bytes and a sequence that fills n words. -/
theorem exists_first_word {b : List Byte} {n : Nat} (hb : b.length = 4 * (n + 1)) :
    ∃ b0 b1 b2 b3 rest, b = b0 :: b1 :: b2 :: b3 :: rest ∧ rest.length = 4 * n := by
  match b, hb with
  | [], hb | [_], hb | [_, _], hb | [_, _, _], hb =>
    simp only [List.length_cons, List.length_nil] at hb
    omega
  | b0 :: b1 :: b2 :: b3 :: rest, hb =>
    exact ⟨b0, b1, b2, b3, rest, rfl, by simp only [List.length_cons] at hb; omega⟩

/-- Word `i` of `words_of` is bytes 4i to 4i+3 put together (R62). -/
theorem wordAt_wordsOf {b : List Byte} {n i : Nat} (hb : b.length = 4 * n) (hi : i < n) :
    wordAt (wordsOf b) i =
      wordOfBytes (b.getD (4 * i) 0) (b.getD (4 * i + 1) 0) (b.getD (4 * i + 2) 0) (b.getD (4 * i + 3) 0) := by
  induction n generalizing b i with
  | zero => omega
  | succ n ih =>
    obtain ⟨b0, b1, b2, b3, rest, rfl, hrest⟩ := exists_first_word hb
    cases i with
    | zero => rfl
    | succ i =>
      have hword := ih hrest (Nat.lt_of_succ_lt_succ hi)
      exact hword

@[simp] theorem bytesOf_length (ws : List Word) : (bytesOf ws).length = 4 * ws.length := by
  induction ws with
  | nil => rfl
  | cons w ws ih => simp only [bytesOf_cons, List.length_cons, ih]; omega

/-- Byte 4i+k of `bytes_of` is byte k of word i (R62). -/
theorem bytesOf_getD {ws : List Word} {i k : Nat} (hi : i < ws.length) (hk : k < 4) :
    (bytesOf ws).getD (4 * i + k) 0 = byteOfWord (wordAt ws i) k := by
  induction ws generalizing i with
  | nil => simp at hi
  | cons w ws ih =>
    rw [bytesOf_cons]
    cases i with
    | zero =>
      match k, hk with
      | 0, _ | 1, _ | 2, _ | 3, _ => rfl
    | succ i =>
      rw [show 4 * (i + 1) + k = 4 * i + k + 4 by omega]
      exact ih (by simpa using hi)

/-- The words of a block's bytes are the block (R62). -/
@[simp] theorem wordsOf_bytesOf (ws : List Word) : wordsOf (bytesOf ws) = ws := by
  induction ws with
  | nil => rfl
  | cons w ws ih => rw [bytesOf_cons, wordsOf, wordOfBytes_byteOfWord, ih]

/-- The bytes of a sequence's words are the sequence, where it fills whole words (R62). -/
theorem bytesOf_wordsOf {b : List Byte} {n : Nat} (hb : b.length = 4 * n) : bytesOf (wordsOf b) = b := by
  induction n generalizing b with
  | zero =>
    obtain rfl := List.eq_nil_of_length_eq_zero hb
    rfl
  | succ n ih =>
    obtain ⟨b0, b1, b2, b3, rest, rfl, hrest⟩ := exists_first_word hb
    obtain ⟨h0, h1, h2, h3⟩ := byteOfWord_wordOfBytes b0 b1 b2 b3
    rw [wordsOf, bytesOf_cons, h0, h1, h2, h3, ih hrest]

/-- Settles O36: the byte of a word replaced is one of four, and `words_of` and `bytes_of` go word by word. -/
theorem byteViewOfTheBlock : Obligations.ByteViewOfTheBlock :=
  ⟨fun _ _ => rfl, fun _ _ k c hj => blockByte_setBlockByte k c hj, fun _ _ _ hb hi => wordAt_wordsOf hb hi,
    fun ws => ⟨bytesOf_length ws, fun _ hi _ hk => bytesOf_getD hi hk⟩, wordsOf_bytesOf,
    fun _ _ hb => bytesOf_wordsOf hb⟩

/-! The step of the host. -/

/-- On the host's turn the access it makes next is the step, with the action and the turn used up (R67). -/
theorem step_access {a : Access} {rest : List HostAction} (ht : nextTurn s = .host)
    (hs : s.script = .access a :: rest) :
    step s = access a { s with schedule := s.schedule.tail, script := rest } := by
  simp [step, ht, hostStep, hs]

/-- On the host's turn a `wait` at the head of its list is polled, with the turn used up (R89). -/
theorem step_wait {rest : List HostAction} (ht : nextTurn s = .host) (hs : s.script = .wait :: rest) :
    step s = .next (poll rest { s with schedule := s.schedule.tail }) := by
  simp [step, ht, hostStep, hs]

/-- Settles O8: a write to CMD hands the command to its meaning. -/
theorem stepRunsTheCommandWritten : Obligations.StepRunsTheCommandWritten := by
  refine ⟨fun s a rest ht hs => step_access ht hs, fun s w rest i ht hr hs hd => ?_⟩
  exact (step_access ht hs).trans (access_write_cmd (by exact hr) hd)

/-! The address map (R61). -/

theorem regAt_key (i : Fin 4) : regAt (BitVec.ofNat 8 (0x08 + i.val)) = .key i := by
  revert i; decide

/-- From word address 0x80 up lies BUF (R61). -/
theorem regAt_of_le {wa : BitVec 8} (h : 0x80 ≤ wa.toNat) :
    regAt wa = .buf ⟨wa.toNat - 0x80, by have := wa.isLt; omega⟩ := by
  have hlow : ∀ a : BitVec 8, a.toNat < 0x80 → wa ≠ a := by rintro a ha rfl; omega
  have hkey : ¬ (0x08 ≤ wa.toNat ∧ wa.toNat ≤ 0x0B) := by omega
  simp [regAt, hlow, hkey, h]

theorem regAt_buf (i : Fin 128) : regAt (BitVec.ofNat 8 (0x80 + i.val)) = .buf i := by
  have hi : (BitVec.ofNat 8 (0x80 + i.val)).toNat = 0x80 + i.val := by
    rw [BitVec.toNat_ofNat]
    omega
  rw [regAt_of_le (by omega)]
  simp [hi]

/-- The two holes of the map, 0x06..0x07 and 0x0C..0x7F (R61). -/
theorem regAt_eq_unmapped_iff (wa : BitVec 8) :
    regAt wa = .unmapped ↔ (0x06 ≤ wa.toNat ∧ wa.toNat ≤ 0x07) ∨ (0x0C ≤ wa.toNat ∧ wa.toNat ≤ 0x7F) := by
  unfold regAt
  split_ifs <;> simp only [false_iff, true_iff] <;> bv_omega

/-- Settles O48: the map clause by clause. -/
theorem addressMap : Obligations.AddressMap :=
  ⟨rfl, rfl, rfl, rfl, rfl, rfl, regAt_key, regAt_buf, regAt_eq_unmapped_iff⟩

/-! Reads (R65). -/

/-- A read is answered by `hostRead`, whatever the state (R65, R180). -/
theorem access_read (wa : BitVec 8) (s : State) :
    access (.read wa) s = .next (hostRead wa { s with bus := some (.read wa) }) := rfl

/-- "No register changes on a read" (R65). -/
theorem sameBlock_hostRead (wa : BitVec 8) (s : State) :
    SameBlock s (hostRead wa { s with bus := some (.read wa) }) := by
  constructor <;> rfl

/-- Settles O49: the read changes the port, the values read and the draws alone. -/
theorem readsChangeNoRegister : Obligations.ReadsChangeNoRegister := fun s wa =>
  ⟨_, access_read wa s, sameBlock_hostRead wa s, rfl, rfl, rfl⟩

/-! The polls of `wait` (R89). -/

/-- STATUS reads as its word while `rst` is released (R183). -/
theorem readValue_status (hr : s.rst = false) : readValue 0x01 s = statusWord s := by
  simp [readValue, hr, readReg, regAt]

/-- Bit 0 of STATUS is BUSY (R183). -/
theorem statusWord_bit_zero (s : State) : (statusWord s).getLsbD 0 = s.busy := by
  rw [statusWord, BitVec.getLsbD_append]
  simp

/-- A poll is a read of STATUS that goes on to the next action when BUSY = 0 (R89). -/
theorem poll_eq (rest : List HostAction) (hr : s.rst = false) :
    poll rest s = { hostRead 0x01 { s with bus := some (.read 0x01) } with
      script := if s.busy then s.script else rest } := by
  have hbit : (readValue 0x01 { s with bus := some (.read 0x01) }).getLsbD 0 = s.busy := by
    rw [readValue_status (by exact hr), statusWord_bit_zero]
  rw [poll, hbit]
  cases s.busy <;> rfl

theorem Inv.busy_eq_false_iff (h : Inv s) : s.busy = false ↔ s.pend = none := by
  rw [← Bool.not_eq_true, h.busy_iff_pend, not_not]

/-- Settles O60: BUSY, which the poll reads, is 0 exactly when nothing is pending. -/
theorem waitEndsWithTheCompletion : Obligations.WaitEndsWithTheCompletion := by
  intro s rest h hr ht hs
  have hpoll := poll_eq (s := { s with schedule := s.schedule.tail }) rest hr
  refine ⟨_, (step_wait ht hs).trans (congrArg _ hpoll), by constructor <;> rfl, ?_, ?_⟩
  · exact congrArg (· :: s.reads) (readValue_status (by exact hr))
  · by_cases hp : s.pend = none
    · simp [hp, h.busy_eq_false_iff.2 hp]
    · simp [hp, h.busy_iff_pend.2 hp]

end Sys2Proof.Machine
end

section
/-! The proofs about the encoding: a command's word by its fields, the table of match and mask, and the words that a
write to CMD rejects. -/

namespace Sys2Proof.Machine

variable {s : State} {w : Word} {i : Instr}

/-! The word of a command by its fields (R80, R81, R86). -/

theorem wellFormed_iff (i : Instr) : i.wellFormed = true ↔ argOf i < 1024 := by
  refine ⟨argOf_lt, fun h => ?_⟩
  cases i <;> simp_all [Instr.wellFormed, argFits, argOf]

theorem argField_lt (w : Word) : argField w < 1024 := (w.extractLsb' 16 10).isLt

/-- The four fields of a word are those of the command (R80, R81). -/
structure IsWordOf (i : Instr) (w : Word) : Prop where
  rsv0 : rsv0Field w = 0
  rsv1 : rsv1Field w = 0
  op : opField w = opcode i
  arg : argField w = argOf i

theorem IsWordOf.wellFormed (h : IsWordOf i w) : i.wellFormed = true :=
  (wellFormed_iff i).2 (h.arg ▸ argField_lt w)

/-- The four fields are the whole word. -/
theorem IsWordOf.encode_eq (h : IsWordOf i w) : encode i = w := by
  have hrsv0 : w.toNat / 16 % 4096 = 0 := by rw [← rsv0Field_toNat, h.rsv0]; rfl
  have hrsv1 : w.toNat / 67108864 = 0 := by rw [← rsv1Field_toNat, h.rsv1]; rfl
  have hop : w.toNat % 16 = (opcode i).toNat := by rw [← opField_toNat, h.op]
  have harg : w.toNat / 65536 % 1024 = argOf i := by rw [← argField_eq, h.arg]
  apply BitVec.eq_of_toNat_eq
  rw [encode_toNat]
  omega

theorem withoutArg_eq_ok {arg : Nat} {j : Instr} (h : withoutArg arg i = .ok j) : arg = 0 ∧ i = j := by
  unfold withoutArg at h
  split at h
  next h0 => exact ⟨h0, Except.ok.inj h⟩
  next => cases h

/-- A word that decodes to a command has the command's fields (R86). -/
theorem isWordOf_of_decode (h : decode w = .ok i) : IsWordOf i w := by
  unfold decode at h
  split at h
  next => cases h
  next hrsv =>
    push Not at hrsv
    obtain ⟨hrsv0, hrsv1⟩ := hrsv
    have hfields {j : Instr} (hop : (opField w).toNat = (opcode j).toNat) (harg : argField w = argOf j) :
        IsWordOf j w := ⟨hrsv0, hrsv1, BitVec.eq_of_toNat_eq hop, harg⟩
    split at h
    next hop => cases h; exact hfields hop rfl
    next hop => cases h; exact hfields hop rfl
    next hop => obtain ⟨harg, rfl⟩ := withoutArg_eq_ok h; exact hfields hop harg
    next hop => obtain ⟨harg, rfl⟩ := withoutArg_eq_ok h; exact hfields hop harg
    next hop => obtain ⟨harg, rfl⟩ := withoutArg_eq_ok h; exact hfields hop harg
    next hop => cases h; exact hfields hop rfl
    next hop => obtain ⟨harg, rfl⟩ := withoutArg_eq_ok h; exact hfields hop harg
    next => cases h

/-- The decoder answers a command exactly to the word with its fields (R86). -/
theorem decode_eq_ok_iff : decode w = .ok i ↔ IsWordOf i w :=
  ⟨isWordOf_of_decode, fun h => h.encode_eq ▸ decode_encode h.wellFormed⟩

theorem decode_eq_ok_iff_encode : decode w = .ok i ↔ i.wellFormed = true ∧ w = encode i := by
  constructor
  · intro h
    have hw := isWordOf_of_decode h
    exact ⟨hw.wellFormed, hw.encode_eq.symm⟩
  · rintro ⟨h, rfl⟩
    exact decode_encode h

/-- Settles O1: the fields of the word are read back one by one. -/
theorem decodeOfEncodeIsTheCommand : Obligations.DecodeOfEncodeIsTheCommand := fun _ h => decode_encode h

/-- Settles O2: the word has the command's fields, and they determine it. -/
theorem encodeOfDecodeIsTheWord : Obligations.EncodeOfDecodeIsTheWord := by
  intro w i h
  obtain ⟨hwf, hw⟩ := decode_eq_ok_iff_encode.1 h
  exact ⟨hwf, hw.symm⟩

/-- Settles O7: seven closed words. -/
theorem sampleWordsDecode : Obligations.SampleWordsDecode := ⟨rfl, rfl, rfl, rfl, rfl, rfl, rfl⟩

/-! The table of match and mask (R87). -/

/-- "The encoding of a command with operand a is match | (a << 16)" (R87). -/
theorem encode_eq_or_shiftLeft (h : i.wellFormed = true) :
    encode i = (opcode i).setWidth 32 ||| (BitVec.ofNat 32 (argOf i) <<< 16) := by
  have harg := argOf_lt h
  have hop : (opcode i).toNat < 2 ^ 16 := by have := (opcode i).isLt; omega
  have hmatch : ((opcode i).setWidth 32).toNat = (opcode i).toNat := BitVec.toNat_setWidth_of_le (by decide)
  have hshift : (BitVec.ofNat 32 (argOf i) <<< 16).toNat = 2 ^ 16 * argOf i := by
    rw [BitVec.toNat_shiftLeft, BitVec.toNat_ofNat, Nat.shiftLeft_eq]
    omega
  apply BitVec.eq_of_toNat_eq
  rw [encode_toNat, BitVec.toNat_or, hmatch, hshift, Nat.or_comm, ← Nat.two_pow_add_eq_or_of_lt hop]
  omega

/-- The mask of a row with an operand clears ARG and keeps the other three fields (R87). -/
theorem fields_and_argMask (w : Word) :
    rsv0Field (w &&& 0xFC00FFFF) = rsv0Field w ∧ rsv1Field (w &&& 0xFC00FFFF) = rsv1Field w ∧
      opField (w &&& 0xFC00FFFF) = opField w ∧ argField (w &&& 0xFC00FFFF) = 0 := by
  refine ⟨?_, ?_, ?_, ?_⟩
  · rw [rsv0Field, BitVec.extractLsb'_and]; exact BitVec.and_allOnes
  · rw [rsv1Field, BitVec.extractLsb'_and]; exact BitVec.and_allOnes
  · rw [opField, BitVec.extractLsb'_and]; exact BitVec.and_allOnes
  · rw [argField, BitVec.extractLsb'_and]; exact congrArg BitVec.toNat BitVec.and_zero

/-- A word has the match of a command with an operand under its mask when it decodes to that command with some
operand; the match is the command's word with operand 0 (R87). -/
theorem and_argMask_eq_encode_iff (mk : Nat → Instr) (hop : ∀ a, opcode (mk a) = opcode (mk 0))
    (harg : ∀ a, argOf (mk a) = a) :
    w &&& 0xFC00FFFF = encode (mk 0) ↔ ∃ a, decode w = .ok (mk a) := by
  obtain ⟨hrsv0, hrsv1, hopw, hargw⟩ := fields_and_argMask w
  have hwf : (mk 0).wellFormed = true := (wellFormed_iff _).2 (by rw [harg]; decide)
  constructor
  · intro h
    have hm : IsWordOf (mk 0) (w &&& 0xFC00FFFF) := isWordOf_of_decode (h ▸ decode_encode hwf)
    refine ⟨argField w, decode_eq_ok_iff.2 ⟨hrsv0 ▸ hm.rsv0, hrsv1 ▸ hm.rsv1, ?_, (harg _).symm⟩⟩
    rw [← hopw, hm.op, hop (argField w)]
  · rintro ⟨a, h⟩
    have hw := isWordOf_of_decode h
    have hm : IsWordOf (mk 0) (w &&& 0xFC00FFFF) :=
      ⟨hrsv0.trans hw.rsv0, hrsv1.trans hw.rsv1, by rw [hopw, hw.op, hop], hargw.trans (harg 0).symm⟩
    exact hm.encode_eq.symm

theorem and_argMask_eq_scramble_iff : w &&& 0xFC00FFFF = 0x00000001 ↔ ∃ a, decode w = .ok (.scramble a) :=
  and_argMask_eq_encode_iff .scramble (fun _ => rfl) (fun _ => rfl)

theorem and_argMask_eq_unscramble_iff : w &&& 0xFC00FFFF = 0x00000002 ↔ ∃ a, decode w = .ok (.unscramble a) :=
  and_argMask_eq_encode_iff .unscramble (fun _ => rfl) (fun _ => rfl)

theorem and_argMask_eq_chunk_iff : w &&& 0xFC00FFFF = 0x00000006 ↔ ∃ a, decode w = .ok (.chunk a) :=
  and_argMask_eq_encode_iff .chunk (fun _ => rfl) (fun _ => rfl)

/-- The mask of a row without an operand keeps the whole word (R87). -/
theorem and_fullMask_eq_encode_iff : w &&& 0xFFFFFFFF = encode i ↔ w = encode i :=
  iff_of_eq (congrArg (· = encode i) BitVec.and_allOnes)

/-- A row without an operand holds one word, that of its command (R87). -/
theorem and_fullMask_eq_encode_iff_decode (i : Instr) (h : i.wellFormed = true) :
    w &&& 0xFFFFFFFF = encode i ↔ decode w = .ok i := by
  rw [and_fullMask_eq_encode_iff, decode_eq_ok_iff_encode]
  simp [h]

theorem and_fullMask_eq_keyclr_iff : w &&& 0xFFFFFFFF = 0x00000003 ↔ decode w = .ok .keyclr :=
  and_fullMask_eq_encode_iff_decode .keyclr rfl

theorem and_fullMask_eq_encopen_iff : w &&& 0xFFFFFFFF = 0x00000004 ↔ decode w = .ok .encopen :=
  and_fullMask_eq_encode_iff_decode .encopen rfl

theorem and_fullMask_eq_decopen_iff : w &&& 0xFFFFFFFF = 0x00000005 ↔ decode w = .ok .decopen :=
  and_fullMask_eq_encode_iff_decode .decopen rfl

theorem and_fullMask_eq_close_iff : w &&& 0xFFFFFFFF = 0x00000007 ↔ decode w = .ok .close :=
  and_fullMask_eq_encode_iff_decode .close rfl

/-- The words that decode to some command of a family with an operand are the encodings, one for each value of ARG. -/
theorem exists_decode_iff_exists_encode (mk : Nat → Instr) (harg : ∀ a, argOf (mk a) = a) :
    (∃ a, decode w = .ok (mk a)) ↔ ∃ a < 1024, w = encode (mk a) :=
  exists_congr fun a => by rw [decode_eq_ok_iff_encode, wellFormed_iff, harg]

/-- Settles O3: the word of a command by its operand, then the rows, then six closed words. -/
theorem encodingIsMatchAndShiftedOperand : Obligations.EncodingIsMatchAndShiftedOperand := by
  refine ⟨fun a ha => ?_, rfl, rfl, rfl, rfl, fun w => ?_, rfl, rfl, rfl, rfl, rfl, rfl⟩
  · exact ⟨encode_eq_or_shiftLeft (i := .scramble a) (decide_eq_true ha),
      encode_eq_or_shiftLeft (i := .unscramble a) (decide_eq_true ha),
      encode_eq_or_shiftLeft (i := .chunk a) (decide_eq_true ha)⟩
  · exact ⟨and_argMask_eq_scramble_iff.trans (exists_decode_iff_exists_encode _ fun _ => rfl),
      and_argMask_eq_unscramble_iff.trans (exists_decode_iff_exists_encode _ fun _ => rfl),
      and_argMask_eq_chunk_iff.trans (exists_decode_iff_exists_encode _ fun _ => rfl),
      and_fullMask_eq_encode_iff (i := .keyclr), and_fullMask_eq_encode_iff (i := .encopen),
      and_fullMask_eq_encode_iff (i := .decopen), and_fullMask_eq_encode_iff (i := .close)⟩

/-- There is a command with a property exactly when one of the seven kinds has it. -/
theorem exists_instr_iff {P : Instr → Prop} :
    (∃ i, P i) ↔ (∃ n, P (.scramble n)) ∨ (∃ n, P (.unscramble n)) ∨ P .keyclr ∨ P .encopen ∨ P .decopen ∨
      (∃ l, P (.chunk l)) ∨ P .close := by
  constructor
  · rintro ⟨i, hi⟩
    cases i with
    | scramble n => exact .inl ⟨n, hi⟩
    | unscramble n => exact .inr (.inl ⟨n, hi⟩)
    | keyclr => exact .inr (.inr (.inl hi))
    | encopen => exact .inr (.inr (.inr (.inl hi)))
    | decopen => exact .inr (.inr (.inr (.inr (.inl hi))))
    | chunk l => exact .inr (.inr (.inr (.inr (.inr (.inl ⟨l, hi⟩)))))
    | close => exact .inr (.inr (.inr (.inr (.inr (.inr hi)))))
  · rintro (⟨_, h⟩ | ⟨_, h⟩ | h | h | h | ⟨_, h⟩ | h) <;> exact ⟨_, h⟩

/-- A row matches the words that decode to a command of its mnemonic (R87). -/
theorem rowMatches_iff {r : OpcodeRow} (hr : r ∈ opcodeRows) (w : Word) :
    rowMatches r w = true ↔ ∃ i, decode w = .ok i ∧ r.mnemonic = mnemonicOf i := by
  rw [rowMatches, beq_iff_eq, exists_instr_iff]
  simp only [opcodeRows, List.mem_cons, List.not_mem_nil, or_false] at hr
  rcases hr with rfl | rfl | rfl | rfl | rfl | rfl | rfl
  · simpa [mnemonicOf] using and_argMask_eq_scramble_iff
  · simpa [mnemonicOf] using and_argMask_eq_unscramble_iff
  · simpa [mnemonicOf] using and_fullMask_eq_keyclr_iff
  · simpa [mnemonicOf] using and_fullMask_eq_encopen_iff
  · simpa [mnemonicOf] using and_fullMask_eq_decopen_iff
  · simpa [mnemonicOf] using and_argMask_eq_chunk_iff
  · simpa [mnemonicOf] using and_fullMask_eq_close_iff

/-- Every command has a row (R87). -/
theorem exists_row (i : Instr) : ∃ r ∈ opcodeRows, r.mnemonic = mnemonicOf i := by
  cases i <;> simp [opcodeRows, mnemonicOf]

/-- Settles O4: a row matches the words of its mnemonic, and a word decodes to one command. -/
theorem decoderAcceptsExactlyTheOpcodeTable : Obligations.DecoderAcceptsExactlyTheOpcodeTable := by
  intro w
  refine ⟨⟨?_, ?_⟩, fun i hi r hr => ?_⟩
  · rintro ⟨i, hi⟩
    obtain ⟨r, hr, hm⟩ := exists_row i
    exact ⟨r, hr, (rowMatches_iff hr w).2 ⟨i, hi, hm⟩⟩
  · rintro ⟨r, hr, hm⟩
    obtain ⟨i, hi, -⟩ := (rowMatches_iff hr w).1 hm
    exact ⟨i, hi⟩
  · rw [rowMatches_iff hr, hi]
    simp

/-! The words that a write to CMD rejects (R83, R84, R85). -/

/-- A write to CMD of a word that is no command records ILLEGAL, or BUSY while a command is pending (R188, R223). -/
theorem access_write_cmd_of_not_decoded (hr : s.rst = false) (hd : ∀ i, decode w ≠ .ok i) :
    access (.write 0x03 w) s =
      .next (recordError (if s.busy then .busy else .illegal) { s with bus := some (.write 0x03 w) }) := by
  cases hw : decode w with
  | ok i => exact absurd hw (hd i)
  | error e => simp [access, hr, writeReg, regAt, writeCmd, hw]

/-- A write to CMD of a command that fails a check of acceptance records the error of the first one (R188). -/
theorem access_write_cmd_of_firstFailure {e : ErrorName} (hr : s.rst = false) (hd : decode w = .ok i)
    (hf : firstFailure (acceptanceChecks s i) = some e) :
    access (.write 0x03 w) s = .next (recordError e { s with bus := some (.write 0x03 w) }) := by
  have hchecks : acceptanceChecks { s with bus := some (.write 0x03 w) } i = acceptanceChecks s i := by
    cases i <;> rfl
  rw [access_write_cmd hr hd, exec_offered i (by simp), hchecks, offer, hf]

/-- OP of a command is 0x1 to 0x7 (R84). -/
theorem opcode_mem_range (i : Instr) : opcode i ≠ 0x0 ∧ (opcode i).toNat < 0x8 := by
  cases i <;> simp [opcode]

/-- The commands of the operation numbers 3, 4, 5 and 7 take no argument (R81, R85). -/
theorem argOf_eq_zero (h : opcode i = 0x3 ∨ opcode i = 0x4 ∨ opcode i = 0x5 ∨ opcode i = 0x7) : argOf i = 0 := by
  cases i <;> simp_all [opcode, argOf]

/-- Settles O5: no command's word has such a field. -/
theorem reservedWordsAreRejected : Obligations.ReservedWordsAreRejected := by
  intro w s hr hres
  refine access_write_cmd_of_not_decoded hr fun i hd => ?_
  have hw := isWordOf_of_decode hd
  obtain ⟨hne, hlt⟩ := opcode_mem_range i
  rcases hres with h | h | h | h
  · exact h hw.rsv0
  · exact h hw.rsv1
  · exact hne (hw.op ▸ h)
  · rw [hw.op] at h
    omega

/-- The checks of a transform whose word count is out of range fail on the key or on the argument (R112, R223). -/
theorem firstFailure_transformChecks {n : Nat} (hb : s.busy = false) (hn : n < 2 ∨ 128 < n) :
    firstFailure (transformChecks n s) = some (if keyValid s then .badarg else .nokey) := by
  cases hk : keyValid s <;> simp [transformChecks, firstFailure, hb, hk, (wordCountOk_eq_false n).2 hn]

/-- The checks of CHUNK whose byte count is out of range fail on the stream or on the argument (R144, R223). -/
theorem firstFailure_chunkChecks {l : Nat} (hb : s.busy = false) (hl : 512 < l) :
    firstFailure (acceptanceChecks s (.chunk l)) = some (if streamOpen s.stream then .badarg else .stream) := by
  cases ho : streamOpen s.stream <;> simp [acceptanceChecks, firstFailure, hb, ho, (chunkLengthOk_eq_false l).2 hl]

/-- Settles O6: a word with an argument out of place is none of the commands without one, and acceptance checks the
argument of the others last. -/
theorem argumentsOutOfPlaceAreRejected : Obligations.ArgumentsOutOfPlaceAreRejected := by
  intro w s hr hb hrsv0 hrsv1
  refine ⟨fun hop harg => ?_, fun hop hn => ?_, fun hop hl => ?_⟩
  · have hno : ∀ i, decode w ≠ .ok i := fun i hd => by
      have hw := isWordOf_of_decode hd
      rw [hw.op] at hop
      exact harg (hw.arg.trans (argOf_eq_zero hop))
    simpa [hb] using access_write_cmd_of_not_decoded hr hno
  · rcases hop with hop | hop
    · have hd : decode w = .ok (.scramble (argField w)) := decode_eq_ok_iff.2 ⟨hrsv0, hrsv1, hop, rfl⟩
      exact access_write_cmd_of_firstFailure hr hd (firstFailure_transformChecks hb hn)
    · have hd : decode w = .ok (.unscramble (argField w)) := decode_eq_ok_iff.2 ⟨hrsv0, hrsv1, hop, rfl⟩
      exact access_write_cmd_of_firstFailure hr hd (firstFailure_transformChecks hb hn)
  · have hd : decode w = .ok (.chunk (argField w)) := decode_eq_ok_iff.2 ⟨hrsv0, hrsv1, hop, rfl⟩
    exact access_write_cmd_of_firstFailure hr hd (firstFailure_chunkChecks hb hl)

end Sys2Proof.Machine
end

section
/-! The proofs about the cipher: the mixing value and the schedule, the transforms against the pseudocode and against
the ring, and that they undo each other. -/

namespace Sys2Proof.Machine

variable {key : Vector Word 4} {n : Nat}

/-! The mixing value, the number of rounds and the selector (R101 to R105). -/

theorem and_three_eq_mod (a : Nat) : a &&& 3 = a % 4 := Nat.and_two_pow_sub_one_eq_mod a 2

theorem keyIndex_eq (p : Nat) (e : BitVec 2) : (BitVec.ofNat 2 p ^^^ e).toNat = (p &&& 3) ^^^ e.toNat := by
  rw [BitVec.toNat_xor, BitVec.toNat_ofNat, and_three_eq_mod]

theorem keyIndex_lt (p : Nat) (e : BitVec 2) : (p &&& 3) ^^^ e.toNat < 4 :=
  keyIndex_eq p e ▸ (BitVec.ofNat 2 p ^^^ e).isLt

/-- The key word by its number (R104). -/
theorem keyWord_eq_getD (key : Vector Word 4) (p : Nat) (e : BitVec 2) :
    keyWord key p e = key.toList.getD ((p &&& 3) ^^^ e.toNat) 0 := by
  rw [List.getD_eq_getElem _ _ (by simpa using keyIndex_lt p e), Vector.getElem_toList]
  simp only [← keyIndex_eq]
  rfl

/-- Settles O11: the key word is the one of index (p & 3) xor e. -/
theorem mixingValue : Obligations.MixingValue :=
  ⟨fun key z y sum p e => by rw [← keyWord_eq_getD]; rfl, keyIndex_lt, by decide⟩

/-- Q(n) is 6 + k where 52 holds n just k times (R102). -/
theorem roundCount_eq {k : Nat} (hlo : k * n ≤ 52) (hhi : 52 < (k + 1) * n) : roundCount n = 6 + k := by
  rw [roundCount, Nat.div_eq_of_lt_le hlo hhi]

/-- The selector is (sum >> 2) & 3 (R103). -/
theorem setWidth_selector (sum : Word) : (selector sum).setWidth 32 = (sum >>> 2) &&& 3 := by
  apply BitVec.eq_of_toNat_eq
  simp [selector, and_three_eq_mod]
  omega

theorem setWidth_shiftRight_and (sum : Word) : ((sum >>> 2) &&& 3).setWidth 2 = selector sum := by
  rw [← setWidth_selector, BitVec.setWidth_setWidth_of_le _ (by decide), BitVec.setWidth_eq]

/-- Settles O12: each row of the table is a number of times that 52 holds n. -/
theorem scheduleOfRounds : Obligations.ScheduleOfRounds := by
  refine ⟨rfl, fun _ _ => rfl, rfl, rfl, rfl, rfl, rfl, rfl, rfl, ?_, ?_, ?_, ?_, ?_, ?_, setWidth_selector⟩
  · exact fun n _ _ => roundCount_eq (k := 5) (by omega) (by omega)
  · exact fun n _ _ => roundCount_eq (k := 4) (by omega) (by omega)
  · exact fun n _ _ => roundCount_eq (k := 3) (by omega) (by omega)
  · exact fun n _ _ => roundCount_eq (k := 2) (by omega) (by omega)
  · exact fun n _ _ => roundCount_eq (k := 1) (by omega) (by omega)
  · exact fun n _ _ => roundCount_eq (k := 0) (by omega) (by omega)

/-! The sums of the rounds, and the inverse loop (R107, R108, R111). -/

theorem roundSum_zero : roundSum 0 = 0 := rfl

theorem roundSum_add (a b : Nat) : roundSum (a + b) = roundSum a + roundSum b := by
  simp only [roundSum, BitVec.ofNat_add]
  ring

theorem roundSum_succ (r : Nat) : roundSum (r + 1) = roundSum r + delta := roundSum_add r 1

theorem roundSum_sub {k q : Nat} (h : k ≤ q) : roundSum q - roundSum k = roundSum (q - k) := by
  rw [← Nat.sub_add_cancel h, roundSum_add, Nat.add_sub_cancel]
  exact BitVec.add_sub_cancel _ _

theorem roundSum_succ_sub_delta (r : Nat) : roundSum (r + 1) - delta = roundSum r :=
  roundSum_sub (Nat.le_add_left 1 r)

theorem roundSum_toNat (r : Nat) : (roundSum r).toNat = r * delta.toNat % 2 ^ 32 := by
  rw [roundSum, BitVec.toNat_mul, BitVec.toNat_ofNat, Nat.mod_mul_mod]

/-- DELTA is odd, so a multiple of it is 0 modulo 2^32 only when the factor is (R111). -/
theorem roundSum_eq_zero_iff {r : Nat} (hr : r < 2 ^ 32) : roundSum r = 0 ↔ r = 0 := by
  refine ⟨fun h => ?_, by rintro rfl; rfl⟩
  have hdvd : 2 ^ 32 ∣ r * delta.toNat := Nat.dvd_of_mod_eq_zero (by rw [← roundSum_toNat, h]; rfl)
  exact Nat.eq_zero_of_dvd_of_lt (Nat.Coprime.dvd_of_dvd_mul_right (by decide) hdvd) hr

theorem startSum_eq_roundSum (n : Nat) : startSum n = roundSum (roundCount n) := rfl

/-- After k iterations of the inverse loop the sum is (q − k)·DELTA, and 0 only when k = q (R111). -/
theorem startSum_sub_eq_zero_iff {k : Nat} (hn : 2 ≤ n) (hk : k ≤ roundCount n) :
    startSum n - roundSum k = 0 ↔ k = roundCount n := by
  have hq := roundCount_le hn
  rw [startSum_eq_roundSum, roundSum_sub hk, roundSum_eq_zero_iff (by omega)]
  omega

theorem backwardRounds_zero_sum (fuel : Nat) (vy : List Word × Word) : backwardRounds n key fuel 0 vy = vy.1 := by
  cases fuel <;> rfl

theorem backwardRounds_succ {sum : Word} (h : sum ≠ 0) (fuel : Nat) (vy : List Word × Word) :
    backwardRounds n key (fuel + 1) sum vy = backwardRounds n key fuel (sum - delta) (backwardRound n key sum vy) := by
  rw [backwardRounds, if_neg h]

/-- The first k iterations of the inverse loop are k rounds (R111). -/
theorem backwardRounds_add (key : Vector Word 4) (hn : 2 ≤ n) (vy : List Word × Word) {k : Nat}
    (hk : k ≤ roundCount n) (fuel : Nat) :
    backwardRounds n key (k + fuel) (startSum n) vy =
      backwardRounds n key fuel (startSum n - roundSum k)
        ((List.range k).foldl (fun u j => backwardRound n key (roundSum (roundCount n - j)) u) vy) := by
  induction k generalizing fuel with
  | zero => rw [Nat.zero_add, roundSum_zero, sub_zero]; rfl
  | succ k ih =>
    have hk' : k ≤ roundCount n := Nat.le_of_succ_le hk
    have hsum : startSum n - roundSum k ≠ 0 := by rw [ne_eq, startSum_sub_eq_zero_iff hn hk']; omega
    have hnext : startSum n - roundSum k - delta = startSum n - roundSum (k + 1) := by
      rw [roundSum_succ]; ring
    rw [Nat.succ_add_eq_add_succ, ih hk', backwardRounds_succ hsum, hnext, startSum_eq_roundSum, roundSum_sub hk',
      List.range_succ, List.foldl_append]
    rfl

/-- However often the inverse loop may run from Q(n) times up, it runs Q(n) times (R111). -/
theorem backwardRounds_eq_foldl (key : Vector Word 4) (hn : 2 ≤ n) (vy : List Word × Word) {fuel : Nat}
    (hf : roundCount n ≤ fuel) :
    backwardRounds n key fuel (startSum n) vy =
      ((List.range (roundCount n)).foldl (fun u j => backwardRound n key (roundSum (roundCount n - j)) u) vy).1 := by
  obtain ⟨m, rfl⟩ := Nat.exists_eq_add_of_le hf
  rw [backwardRounds_add key hn vy (Nat.le_refl _), (startSum_sub_eq_zero_iff hn (Nat.le_refl _)).2 rfl,
    backwardRounds_zero_sum]

/-- Settles O18: the sum falls by DELTA a round and is 0 only after the last one. -/
theorem inverseLoopRunsQTimes : Obligations.InverseLoopRunsQTimes := fun _ hn =>
  ⟨fun _ hk => ⟨roundSum_sub hk, startSum_sub_eq_zero_iff hn hk,
      fun key fuel vy => backwardRounds_add key hn vy hk fuel⟩,
    fun key _ vy hf => backwardRounds_eq_foldl key hn vy hf⟩

/-! The transforms against the pseudocode read by index (R107, R108). -/

@[simp] theorem wordAt_append_length (pre : List Word) (x : Word) (rest : List Word) :
    wordAt (pre ++ x :: rest) pre.length = x := by simp [wordAt]

@[simp] theorem wordAt_append_length_succ (pre : List Word) (x y : Word) (rest : List Word) :
    wordAt (pre ++ x :: y :: rest) (pre.length + 1) = y := by simp [wordAt]

/-- A block of two words or more (R109). -/
theorem exists_two_words {v : List Word} (h : 2 ≤ v.length) : ∃ x y rest, v = x :: y :: rest := by
  match v, h with
  | x :: y :: rest, _ => exact ⟨x, y, rest, rfl⟩

/-- The walk of R107 by index, on the words behind `pre`: it gives the same words, and carries on the last word it
updated. -/
theorem indexForwardWalk_eq (key : Vector Word 4) (sum : Word) (e : BitVec 2) (pre : List Word) (z x : Word)
    (rest : List Word) :
    indexForwardWalk key sum e (List.range' pre.length rest.length) (pre ++ x :: rest, z) =
      (pre ++ forwardWalk key sum e pre.length z (x :: rest),
        wordAt (z :: forwardWalk key sum e pre.length z (x :: rest)) rest.length) := by
  induction rest generalizing pre z x with
  | nil => rfl
  | cons y rest ih =>
    have hnext := ih (pre ++ [x + mx key z y sum pre.length e]) (x + mx key z y sum pre.length e) y
    simp only [List.length_append, List.length_singleton, List.append_assoc, List.singleton_append] at hnext
    simp [List.range'_succ, indexForwardWalk, forwardWalk, hnext]

/-- A round of R107 by index is the fast round. -/
theorem indexForwardRound_eq (key : Vector Word 4) (sum : Word) (hn : 2 ≤ n) {vz : List Word × Word}
    (hv : vz.1.length = n) : indexForwardRound n key sum vz = forwardRound n key sum vz := by
  obtain ⟨v, z⟩ := vz
  obtain rfl : v.length = n := hv
  obtain ⟨x, y, rest, rfl⟩ := exists_two_words hn
  have hwalk := indexForwardWalk_eq key sum (selector sum) [] z x (y :: rest)
  simp only [List.nil_append, List.length_nil, List.length_cons, ← List.range_eq_range'] at hwalk
  simp only [indexForwardRound, forwardRound, setWidth_shiftRight_and, List.length_cons,
    Nat.add_sub_cancel, hwalk, wordAt_cons_succ, Nat.reduceSubDiff]

@[simp] theorem forwardRound_length (key : Vector Word 4) (sum : Word) (vz : List Word × Word) :
    (forwardRound n key sum vz).1.length = vz.1.length := by simp [forwardRound]

/-- The rounds of R107 by index are the fast rounds, and they make no words. -/
theorem indexForwardRounds_eq (key : Vector Word 4) (hn : 2 ≤ n) (q : Nat) (sum : Word) {vz : List Word × Word}
    (hv : vz.1.length = n) :
    indexForwardRounds n key q sum vz = forwardRounds n key q sum vz ∧
      (forwardRounds n key q sum vz).length = n := by
  induction q generalizing sum vz with
  | zero => exact ⟨rfl, hv⟩
  | succ q ih =>
    rw [indexForwardRounds, indexForwardRound_eq key _ hn hv]
    exact ih (sum + delta) (by simpa using hv)

theorem scramble_length (key : Vector Word 4) {v : List Word} (hn : 2 ≤ n) (hv : v.length = n) :
    (scramble n key v).length = n := (indexForwardRounds_eq key hn _ _ hv).2

/-- Settles O13: the fast walk is the walk by index, and so are the rounds. -/
theorem scrambleIsThePseudocode : Obligations.ScrambleIsThePseudocode :=
  ⟨fun _ key _ hn hv => ⟨(indexForwardRounds_eq key hn _ _ hv).1.symm, scramble_length key hn hv⟩,
    by decide +kernel⟩

theorem indexBackwardWalk_append (key : Vector Word 4) (sum : Word) (e : BitVec 2) (ps qs : List Nat)
    (vy : List Word × Word) :
    indexBackwardWalk key sum e (ps ++ qs) vy =
      indexBackwardWalk key sum e qs (indexBackwardWalk key sum e ps vy) := by
  induction ps generalizing vy with
  | nil => rfl
  | cons p ps ih => exact ih _

/-- The walk of R108 by index, on the words behind `pre` and `z`: it gives the same words, and carries on the first of
them. -/
theorem indexBackwardWalk_eq (key : Vector Word 4) (sum : Word) (e : BitVec 2) (y : Word) (pre : List Word) (z : Word)
    (rest : List Word) :
    indexBackwardWalk key sum e (List.range' (pre.length + 1) rest.length).reverse (pre ++ z :: rest, y) =
      (pre ++ z :: backwardWalk key sum e y (pre.length + 1) z rest,
        (backwardWalk key sum e y (pre.length + 1) z rest).headD y) := by
  induction rest generalizing pre z with
  | nil => rfl
  | cons x rest ih =>
    have hright := ih (pre ++ [z]) x
    simp only [List.length_append, List.length_singleton, List.append_assoc, List.singleton_append] at hright
    simp [List.range'_succ, indexBackwardWalk_append, hright, indexBackwardWalk, backwardWalk]

/-- A round of R108 by index is the fast round. -/
theorem indexBackwardRound_eq (key : Vector Word 4) (sum : Word) (hn : 2 ≤ n) {vy : List Word × Word}
    (hv : vy.1.length = n) : indexBackwardRound n key sum vy = backwardRound n key sum vy := by
  obtain ⟨v, y⟩ := vy
  obtain rfl : v.length = n := hv
  obtain ⟨z, x, rest, rfl⟩ := exists_two_words hn
  have hwalk := indexBackwardWalk_eq key sum (selector sum) y [] z (x :: rest)
  simp only [List.nil_append, List.length_nil, List.length_cons, Nat.zero_add] at hwalk
  simp only [indexBackwardRound, setWidth_shiftRight_and, List.length_cons, Nat.add_sub_cancel, hwalk, backwardRound,
    List.set_cons_zero, wordAt_cons_zero, wordAt_cons_succ, List.drop_one, List.tail_cons, Nat.reduceSubDiff]
  rfl

theorem backwardRound_length (key : Vector Word 4) (sum : Word) {vy : List Word × Word} (hv : 0 < vy.1.length) :
    (backwardRound n key sum vy).1.length = vy.1.length := by
  simp [backwardRound]
  omega

/-- The loop of R108 by index is the fast loop, and it makes no words. -/
theorem indexBackwardRounds_eq (key : Vector Word 4) (hn : 2 ≤ n) (fuel : Nat) (sum : Word) {vy : List Word × Word}
    (hv : vy.1.length = n) :
    indexBackwardRounds n key fuel sum vy = backwardRounds n key fuel sum vy ∧
      (backwardRounds n key fuel sum vy).length = n := by
  induction fuel generalizing sum vy with
  | zero => exact ⟨rfl, hv⟩
  | succ fuel ih =>
    rw [indexBackwardRounds, backwardRounds, indexBackwardRound_eq key sum hn hv]
    split
    · exact ⟨rfl, hv⟩
    · exact ih (sum - delta) (by rw [backwardRound_length key sum (by omega), hv])

theorem unscramble_length (key : Vector Word 4) {v : List Word} (hn : 2 ≤ n) (hv : v.length = n) :
    (unscramble n key v).length = n := (indexBackwardRounds_eq key hn _ _ hv).2

/-- Settles O14: the fast walk is the walk by index, and so are the rounds, of which the loop makes Q(n) whatever more
it may make. -/
theorem unscrambleIsThePseudocode : Obligations.UnscrambleIsThePseudocode := by
  refine ⟨fun fuel n key v hn hv hf => ⟨?_, unscramble_length key hn hv⟩, by decide +kernel⟩
  calc unscramble n key v
      = backwardRounds n key fuel (startSum n) (v, wordAt v 0) := by
        rw [unscramble, backwardRounds_eq_foldl key hn _ (Nat.le_refl _), backwardRounds_eq_foldl key hn _ hf]
    _ = indexUnscramble fuel n key v := (indexBackwardRounds_eq key hn fuel _ hv).1.symm

/-! The transforms on the ring (R106). -/

section
variable {v : List Word} {p : Nat}

theorem leftNeighbour_zero (v : List Word) (hn : 2 ≤ n) : leftNeighbour n v 0 = wordAt v (n - 1) := by
  rw [leftNeighbour, Nat.zero_add, Nat.mod_eq_of_lt (by omega)]

theorem leftNeighbour_succ (v : List Word) (hp : p + 1 < n) : leftNeighbour n v (p + 1) = wordAt v p := by
  rw [leftNeighbour, Nat.succ_add_sub_one, Nat.add_mod_right, Nat.mod_eq_of_lt (by omega)]

theorem rightNeighbour_of_lt (v : List Word) (hp : p + 1 < n) : rightNeighbour n v p = wordAt v (p + 1) := by
  rw [rightNeighbour, Nat.mod_eq_of_lt hp]

theorem rightNeighbour_last (v : List Word) (hn : 2 ≤ n) : rightNeighbour n v (n - 1) = wordAt v 0 := by
  rw [rightNeighbour, Nat.sub_add_cancel (by omega), Nat.mod_self]

theorem wordAt_ringAdd (key : Vector Word 4) (sum : Word) (hp : p < v.length) :
    wordAt (ringAdd n key sum v p) p = wordAt v p + ringMix n key sum v p := by
  rw [ringAdd, wordAt_set _ _ hp, if_pos rfl]

theorem wordAt_ringSub (key : Vector Word 4) (sum : Word) (hp : p < v.length) :
    wordAt (ringSub n key sum v p) p = wordAt v p - ringMix n key sum v p := by
  rw [ringSub, wordAt_set _ _ hp, if_pos rfl]

theorem foldl_ringAdd_length (key : Vector Word 4) (sum : Word) (ps : List Nat) (v : List Word) :
    (ps.foldl (ringAdd n key sum) v).length = v.length :=
  List.foldlRecOn (motive := fun u => u.length = v.length) ps _ rfl fun u hu p _ =>
    (ringAdd_length n key sum u p).trans hu

theorem foldl_ringSub_length (key : Vector Word 4) (sum : Word) (ps : List Nat) (v : List Word) :
    (ps.foldl (ringSub n key sum) v).length = v.length :=
  List.foldlRecOn (motive := fun u => u.length = v.length) ps _ rfl fun u hu p _ =>
    (ringSub_length n key sum u p).trans hu

/-- The walk of R107 by index carries on the left neighbour of the word that comes next. -/
theorem indexForwardWalk_eq_ring (key : Vector Word 4) (sum : Word) {k : Nat} (hv : v.length = n) (hk : p + k < n) :
    indexForwardWalk key sum (selector sum) (List.range' p k) (v, leftNeighbour n v p) =
      ((List.range' p k).foldl (ringAdd n key sum) v,
        leftNeighbour n ((List.range' p k).foldl (ringAdd n key sum) v) (p + k)) := by
  induction k generalizing p v with
  | zero => rfl
  | succ k ih =>
    have hleft : wordAt v p + ringMix n key sum v p = leftNeighbour n (ringAdd n key sum v p) (p + 1) := by
      rw [leftNeighbour_succ _ (by omega), wordAt_ringAdd key sum (by omega)]
    rw [List.range'_succ, indexForwardWalk, ← rightNeighbour_of_lt (n := n) v (by omega)]
    change indexForwardWalk _ _ _ _ (ringAdd n key sum v p, wordAt v p + ringMix n key sum v p) = _
    rw [hleft, ih (by simpa using hv) (by omega), List.foldl_cons, Nat.add_right_comm, Nat.add_assoc]

/-- A round of R107 on the ring; the value carried on is the last word, the left neighbour of word 0. -/
theorem forwardRound_eq_ring (key : Vector Word 4) (sum : Word) (hn : 2 ≤ n) (hv : v.length = n) :
    forwardRound n key sum (v, wordAt v (n - 1)) =
      ((List.range n).foldl (ringAdd n key sum) v, wordAt ((List.range n).foldl (ringAdd n key sum) v) (n - 1)) := by
  have hwalk := indexForwardWalk_eq_ring (p := 0) (k := n - 1) key sum hv (by omega)
  have hrange : List.range n = List.range' 0 (n - 1) ++ [n - 1] := by
    rw [← List.range_eq_range', ← List.range_succ, Nat.succ_eq_add_one, Nat.sub_add_cancel (by omega)]
  rw [leftNeighbour_zero v hn, Nat.zero_add, ← List.range_eq_range'] at hwalk
  rw [← indexForwardRound_eq key sum hn hv, hrange, List.foldl_append, ← List.range_eq_range', List.foldl_cons,
    List.foldl_nil, wordAt_ringAdd key sum (by rw [foldl_ringAdd_length]; omega)]
  simp only [indexForwardRound, setWidth_shiftRight_and, hwalk, ringAdd, ringMix, rightNeighbour_last _ hn]

/-- The walk of R108 by index carries on the right neighbour of the word that comes next. -/
theorem indexBackwardWalk_eq_ring (key : Vector Word 4) (sum : Word) {k : Nat} (hv : v.length = n) (hk : k < n) :
    indexBackwardWalk key sum (selector sum) (List.range' 1 k).reverse (v, rightNeighbour n v k) =
      ((List.range' 1 k).reverse.foldl (ringSub n key sum) v,
        rightNeighbour n ((List.range' 1 k).reverse.foldl (ringSub n key sum) v) 0) := by
  induction k generalizing v with
  | zero => rfl
  | succ k ih =>
    have hright : wordAt v (k + 1) - ringMix n key sum v (k + 1) =
        rightNeighbour n (ringSub n key sum v (k + 1)) k := by
      rw [rightNeighbour_of_lt _ hk, wordAt_ringSub key sum (by omega)]
    rw [List.range'_1_concat, List.reverse_concat, Nat.add_comm 1 k, indexBackwardWalk, Nat.add_sub_cancel,
      ← leftNeighbour_succ v hk]
    change indexBackwardWalk _ _ _ _ (ringSub n key sum v (k + 1), wordAt v (k + 1) - ringMix n key sum v (k + 1)) = _
    rw [hright, ih (by simpa using hv) (by omega), List.foldl_cons]

/-- A round of R108 on the ring; the value carried on is word 0, the right neighbour of the last word. -/
theorem backwardRound_eq_ring (key : Vector Word 4) (sum : Word) (hn : 2 ≤ n) (hv : v.length = n) :
    backwardRound n key sum (v, wordAt v 0) =
      ((List.range n).reverse.foldl (ringSub n key sum) v,
        wordAt ((List.range n).reverse.foldl (ringSub n key sum) v) 0) := by
  have hwalk := indexBackwardWalk_eq_ring (k := n - 1) key sum hv (by omega)
  have hrange : (List.range n).reverse = (List.range' 1 (n - 1)).reverse ++ [0] := by
    obtain ⟨m, rfl⟩ := Nat.exists_eq_add_of_le' (Nat.one_le_of_lt hn)
    rw [← List.reverse_cons, List.range_eq_range']
    rfl
  rw [rightNeighbour_last v hn] at hwalk
  rw [← indexBackwardRound_eq key sum hn hv, hrange, List.foldl_append, List.foldl_cons,
    List.foldl_nil, wordAt_ringSub key sum (by rw [foldl_ringSub_length]; omega)]
  simp only [indexBackwardRound, setWidth_shiftRight_and, hwalk, ringSub, ringMix, leftNeighbour_zero _ hn]

end

/-- The rounds of R107 from the one after round `r` on, on the ring. -/
theorem forwardRounds_eq_ring (key : Vector Word 4) (hn : 2 ≤ n) (q r : Nat) {v : List Word} (hv : v.length = n) :
    forwardRounds n key q (roundSum r) (v, wordAt v (n - 1)) =
      (List.range' r q).foldl (fun u r => (List.range n).foldl (ringAdd n key (roundSum (r + 1))) u) v := by
  induction q generalizing r v with
  | zero => rfl
  | succ q ih =>
    rw [forwardRounds, ← roundSum_succ, forwardRound_eq_ring key _ hn hv, ih _ (by rw [foldl_ringAdd_length, hv])]
    rfl

/-- The last `q` rounds of R108, from the sum `q · DELTA` down, on the ring. -/
theorem backwardRounds_eq_ring (key : Vector Word 4) (hn : 2 ≤ n) {q : Nat} (hq : q ≤ 32) {v : List Word}
    (hv : v.length = n) :
    backwardRounds n key q (roundSum q) (v, wordAt v 0) =
      (List.range q).reverse.foldl
        (fun u r => (List.range n).reverse.foldl (ringSub n key (roundSum (r + 1))) u) v := by
  induction q generalizing v with
  | zero => rfl
  | succ q ih =>
    have hsum : roundSum (q + 1) ≠ 0 := by rw [ne_eq, roundSum_eq_zero_iff (by omega)]; omega
    rw [backwardRounds_succ hsum, roundSum_succ_sub_delta, backwardRound_eq_ring key _ hn hv,
      ih (by omega) (by rw [foldl_ringSub_length, hv]), List.range_succ, List.reverse_concat]
    rfl

theorem scramble_eq_ringScramble (key : Vector Word 4) {v : List Word} (hn : 2 ≤ n) (hv : v.length = n) :
    scramble n key v = ringScramble n key v := by
  rw [ringScramble, List.range_eq_range' (n := roundCount n)]
  exact forwardRounds_eq_ring key hn (roundCount n) 0 hv

theorem unscramble_eq_ringUnscramble (key : Vector Word 4) {v : List Word} (hn : 2 ≤ n) (hv : v.length = n) :
    unscramble n key v = ringUnscramble n key v :=
  backwardRounds_eq_ring key hn (roundCount_le hn) hv

/-- On a ring of two words both neighbours of a word are the other one (R106). -/
theorem leftNeighbour_two (v : List Word) (p : Nat) : leftNeighbour 2 v p = rightNeighbour 2 v p := by
  rw [leftNeighbour, rightNeighbour, Nat.add_sub_assoc (by decide)]

/-- Settles O15: the value each walk carries on is the circular neighbour of the word that comes next. -/
theorem neighboursAreCircular : Obligations.NeighboursAreCircular :=
  ⟨fun _ key _ hn hv => ⟨scramble_eq_ringScramble key hn hv, unscramble_eq_ringUnscramble key hn hv⟩,
    fun v p _ => leftNeighbour_two v p⟩

/-! The transforms undo each other (R110, R113). -/

/-- Steps that `g` undoes one by one are undone by `g` in the opposite order; `P` is what every step keeps. -/
theorem foldl_reverse_foldl {α β : Type} {f g : β → α → β} {P : β → Prop} {l : List α}
    (hP : ∀ a ∈ l, ∀ b, P b → P (f b a)) (hg : ∀ a ∈ l, ∀ b, P b → g (f b a) a = b) {b : β} (hb : P b) :
    l.reverse.foldl g (l.foldl f b) = b := by
  induction l generalizing b with
  | nil => rfl
  | cons a l ih =>
    have htail : l.reverse.foldl g (l.foldl f (f b a)) = f b a :=
      ih (fun c hc => hP c (.tail a hc)) (fun c hc => hg c (.tail a hc)) (hP a (.head l) b hb)
    rw [List.foldl_cons, List.reverse_cons, List.foldl_append, htail]
    exact hg a (.head l) b hb

section
variable {v : List Word} {p : Nat}

theorem set_wordAt_self (hp : p < v.length) : v.set p (wordAt v p) = v := by
  rw [wordAt, List.getD_eq_getElem _ _ hp, List.set_getElem_self]

/-- No word is its own neighbour, so rewriting a word leaves its mixing value (R106). -/
theorem ringMix_set (key : Vector Word 4) (sum w : Word) (hn : 2 ≤ n) (hv : v.length = n) (hp : p < n) :
    ringMix n key sum (v.set p w) p = ringMix n key sum v p := by
  have hleft : leftNeighbour n (v.set p w) p = leftNeighbour n v p := by
    cases p with
    | zero => rw [leftNeighbour_zero _ hn, leftNeighbour_zero _ hn, wordAt_set _ _ (by omega), if_neg (by omega)]
    | succ p => rw [leftNeighbour_succ _ hp, leftNeighbour_succ _ hp, wordAt_set _ _ (by omega), if_neg (by omega)]
  have hright : rightNeighbour n (v.set p w) p = rightNeighbour n v p := by
    rcases Nat.lt_or_eq_of_le (Nat.succ_le_of_lt hp) with h | rfl
    · rw [rightNeighbour_of_lt _ h, rightNeighbour_of_lt _ h, wordAt_set _ _ (by omega), if_neg (by omega)]
    · have h := rightNeighbour_last (n := p + 1)
      rw [Nat.add_sub_cancel] at h
      rw [h _ hn, h _ hn, wordAt_set _ _ (by omega), if_neg (by omega)]
  rw [ringMix, ringMix, hleft, hright]

/-- An inverse update undoes the forward one. -/
theorem ringSub_ringAdd (key : Vector Word 4) (sum : Word) (hn : 2 ≤ n) (hv : v.length = n) (hp : p < n) :
    ringSub n key sum (ringAdd n key sum v p) p = v := by
  rw [ringSub, wordAt_ringAdd key sum (by omega), ringAdd, ringMix_set key sum _ hn hv hp, List.set_set,
    add_sub_cancel_right, set_wordAt_self (by omega)]

/-- A forward update undoes the inverse one. -/
theorem ringAdd_ringSub (key : Vector Word 4) (sum : Word) (hn : 2 ≤ n) (hv : v.length = n) (hp : p < n) :
    ringAdd n key sum (ringSub n key sum v p) p = v := by
  rw [ringAdd, wordAt_ringSub key sum (by omega), ringSub, ringMix_set key sum _ hn hv hp, List.set_set,
    sub_add_cancel, set_wordAt_self (by omega)]

/-- An inverse round undoes the forward one. -/
theorem foldl_ringSub_foldl_ringAdd (key : Vector Word 4) (sum : Word) (hn : 2 ≤ n) (hv : v.length = n) :
    (List.range n).reverse.foldl (ringSub n key sum) ((List.range n).foldl (ringAdd n key sum) v) = v :=
  foldl_reverse_foldl (P := fun u => u.length = n) (fun p _ u hu => (ringAdd_length n key sum u p).trans hu)
    (fun _ hp _ hu => ringSub_ringAdd key sum hn hu (List.mem_range.1 hp)) hv

/-- A forward round undoes the inverse one. -/
theorem foldl_ringAdd_foldl_ringSub (key : Vector Word 4) (sum : Word) (hn : 2 ≤ n) (hv : v.length = n) :
    (List.range n).foldl (ringAdd n key sum) ((List.range n).reverse.foldl (ringSub n key sum) v) = v := by
  have h := foldl_reverse_foldl (l := (List.range n).reverse) (f := ringSub n key sum) (g := ringAdd n key sum)
    (P := fun u => u.length = n) (fun p _ u hu => (ringSub_length n key sum u p).trans hu)
    (fun _ hp _ hu => ringAdd_ringSub key sum hn hu (List.mem_range.1 (List.mem_reverse.1 hp))) hv
  rwa [List.reverse_reverse] at h

theorem ringUnscramble_ringScramble (key : Vector Word 4) (hn : 2 ≤ n) (hv : v.length = n) :
    ringUnscramble n key (ringScramble n key v) = v :=
  foldl_reverse_foldl (P := fun u => u.length = n) (fun _ _ _ hu => (foldl_ringAdd_length key _ _ _).trans hu)
    (fun _ _ _ hu => foldl_ringSub_foldl_ringAdd key _ hn hu) hv

theorem ringScramble_ringUnscramble (key : Vector Word 4) (hn : 2 ≤ n) (hv : v.length = n) :
    ringScramble n key (ringUnscramble n key v) = v := by
  have h := foldl_reverse_foldl (l := (List.range (roundCount n)).reverse)
    (f := fun u r => (List.range n).reverse.foldl (ringSub n key (roundSum (r + 1))) u)
    (g := fun u r => (List.range n).foldl (ringAdd n key (roundSum (r + 1))) u)
    (P := fun u => u.length = n) (fun _ _ _ hu => (foldl_ringSub_length key _ _ _).trans hu)
    (fun _ _ _ hu => foldl_ringAdd_foldl_ringSub key _ hn hu) hv
  rwa [List.reverse_reverse] at h

/-- The inverse property (R110). -/
theorem unscramble_scramble (key : Vector Word 4) (hn : 2 ≤ n) (hv : v.length = n) :
    unscramble n key (scramble n key v) = v := by
  rw [unscramble_eq_ringUnscramble key hn (scramble_length key hn hv), scramble_eq_ringScramble key hn hv,
    ringUnscramble_ringScramble key hn hv]

/-- "UNSCRAMBLE N then SCRAMBLE N also restores the block" (R113). -/
theorem scramble_unscramble (key : Vector Word 4) (hn : 2 ≤ n) (hv : v.length = n) :
    scramble n key (unscramble n key v) = v := by
  rw [scramble_eq_ringScramble key hn (unscramble_length key hn hv), unscramble_eq_ringUnscramble key hn hv,
    ringScramble_ringUnscramble key hn hv]

end

/-- Settles O16: on the ring each inverse update undoes the forward one, and they come in the opposite order. -/
theorem unscrambleInvertsScramble : Obligations.UnscrambleInvertsScramble := fun _ key _ hn hv =>
  unscramble_scramble key hn hv

/-- Settles O17: on the ring each forward update undoes the inverse one, and they come in the opposite order. -/
theorem scrambleInvertsUnscramble : Obligations.ScrambleInvertsUnscramble := fun _ key _ hn hv =>
  scramble_unscramble key hn hv

end Sys2Proof.Machine
end

section
/-! The proofs about the commands of the engine: SCRAMBLE and UNSCRAMBLE accepted and performed, what a command that
acceptance never lets through comes to, and that no step stops. -/

namespace Sys2Proof.Machine

variable {s : State} {n : Nat}

/-! SCRAMBLE and UNSCRAMBLE (R112, R113). -/

/-- The checks of R112 and R113 in their order: BUSY, NOKEY, BADARG. -/
theorem offer_transformChecks (i : Instr) (n : Nat) (s : State) :
    offer i (transformChecks n s) s =
      if s.busy then recordError .busy s
      else if keyValid s = false then recordError .nokey s
      else if n < 2 ∨ 128 < n then recordError .badarg s
      else start i s := by
  simp only [← wordCountOk_eq_false n, offer, transformChecks]
  cases s.busy with
  | true => rfl
  | false =>
    cases keyValid s with
    | false => rfl
    | true => cases wordCountOk n <;> rfl

theorem take_toList_length {b : Vector Word 128} (hn : n ≤ 128) : (b.toList.take n).length = n := by simpa using hn

/-- What a completed SCRAMBLE leaves in BUF (R112). -/
theorem onWords_scramble_toList (key : Vector Word 4) {b : Vector Word 128} (h2 : 2 ≤ n) (hn : n ≤ 128) :
    (onWords n (scramble n key) b).toList = scramble n key (b.toList.take n) ++ b.toList.drop n :=
  onWords_toList hn (scramble_length key h2 (take_toList_length hn))

/-- What a completed UNSCRAMBLE leaves in BUF (R113). -/
theorem onWords_unscramble_toList (key : Vector Word 4) {b : Vector Word 128} (h2 : 2 ≤ n) (hn : n ≤ 128) :
    (onWords n (unscramble n key) b).toList = unscramble n key (b.toList.take n) ++ b.toList.drop n :=
  onWords_toList hn (unscramble_length key h2 (take_toList_length hn))

/-- Settles O21: the three checks in their order, and the transform of the first N words. -/
theorem scrambleCommand : Obligations.ScrambleCommand := by
  refine fun n s => ⟨fun hb => ?_, fun hb h2 hn => ⟨onWords n (scramble n s.key) s.buf, ?_, ?_⟩⟩
  · rw [exec_offered _ hb, acceptanceChecks, offer_transformChecks]
    rfl
  · exact exec_scramble_performed hb ((wordCountOk_iff n).2 ⟨h2, hn⟩)
  · exact onWords_scramble_toList s.key h2 hn

/-- Settles O22: the three checks in their order, and the inverse transform of the first N words. -/
theorem unscrambleCommand : Obligations.UnscrambleCommand := by
  refine fun n s => ⟨fun hb => ?_, fun hb h2 hn => ⟨onWords n (unscramble n s.key) s.buf, ?_, ?_⟩⟩
  · rw [exec_offered _ hb, acceptanceChecks, offer_transformChecks]
    rfl
  · exact exec_unscramble_performed hb ((wordCountOk_iff n).2 ⟨h2, hn⟩)
  · exact onWords_unscramble_toList s.key h2 hn

/-- The first N words after a transform of them are the transform of the first N words before. -/
theorem take_onWords_toList {f : List Word → List Word} {b : Vector Word 128} (hn : n ≤ 128)
    (hf : (f (b.toList.take n)).length = n) : (onWords n f b).toList.take n = f (b.toList.take n) := by
  rw [onWords_toList hn hf, List.take_left' hf]

/-- Settles O41: both transforms are functions of the key and of the first N words. -/
theorem equalInputsGiveEqualOutputs : Obligations.EqualInputsGiveEqualOutputs := by
  intro n s s' h2 hn hb hb' hkey hbuf i hi
  have hok : wordCountOk n = true := (wordCountOk_iff n).2 ⟨h2, hn⟩
  have hsame {f : Vector Word 4 → List Word → List Word}
      (hf : ∀ key v, v.length = n → (f key v).length = n) :
      (onWords n (f s.key) s.buf).toList.take n = (onWords n (f s'.key) s'.buf).toList.take n := by
    rw [take_onWords_toList hn (hf _ _ (take_toList_length hn)),
      take_onWords_toList hn (hf _ _ (take_toList_length hn)), hkey, hbuf]
  simp only [List.mem_cons, List.not_mem_nil, or_false] at hi
  rcases hi with rfl | rfl
  · exact ⟨_, _, exec_scramble_performed hb hok, exec_scramble_performed hb' hok,
      hsame fun key _ hv => scramble_length key h2 hv⟩
  · exact ⟨_, _, exec_unscramble_performed hb hok, exec_unscramble_performed hb' hok,
      hsame fun key _ hv => unscramble_length key h2 hv⟩

/-! Commands performed without what acceptance checked of them (notes/assumptions/8.md). -/

theorem exec_scramble_fault (hb : s.bus = none) (hn : n < 2 ∨ 128 < n) :
    exec (.scramble n) s = .fault .wordCountOutOfRange := by
  simp [exec, execScramble, hb, (wordCountOk_eq_false n).2 hn]

theorem exec_unscramble_fault (hb : s.bus = none) (hn : n < 2 ∨ 128 < n) :
    exec (.unscramble n) s = .fault .wordCountOutOfRange := by
  simp [exec, execUnscramble, hb, (wordCountOk_eq_false n).2 hn]

/-- With nothing on the port CHUNK is its completion (R144). -/
theorem exec_chunk_performed (l : Nat) (hb : s.bus = none) : exec (.chunk l) s = performChunk l s := by
  simp [exec, execChunk, hb]

theorem performChunk_tooLong {l : Nat} (hl : 512 < l) : performChunk l s = .fault .chunkTooLong := by
  rw [performChunk, (chunkLengthOk_eq_false l).2 hl]
  rfl

theorem performChunk_outsideStream {l : Nat} (hl : l ≤ 512) (hm : s.stream = .idle ∨ s.stream = .ended) :
    performChunk l s = .fault .chunkOutsideStream := by
  rw [performChunk, (chunkLengthOk_iff l).2 hl]
  rcases hm with hm | hm <;> rw [hm] <;> rfl

/-- Settles O32: each command checks its argument, and CHUNK then the stream. -/
theorem unacceptedCommandsStop : Obligations.UnacceptedCommandsStop := fun _ hb =>
  ⟨fun _ hn => ⟨exec_scramble_fault hb hn, exec_unscramble_fault hb hn⟩,
    fun l hl => (exec_chunk_performed l hb).trans (performChunk_tooLong hl),
    fun l hl hm => (exec_chunk_performed l hb).trans (performChunk_outsideStream hl hm)⟩

/-! No step stops (R109, R180). -/

/-- A command performed with what acceptance checked of it reaches a next state (R196). -/
theorem exists_exec_performed {i : Instr} (hb : s.bus = none) (ha : accepted i s = true) :
    ∃ t, exec i s = .next t := by
  cases i with
  | scramble n =>
    obtain ⟨-, hn⟩ := Bool.and_eq_true_iff.1 ha
    exact ⟨_, exec_scramble_performed hb hn⟩
  | unscramble n =>
    obtain ⟨-, hn⟩ := Bool.and_eq_true_iff.1 ha
    exact ⟨_, exec_unscramble_performed hb hn⟩
  | keyclr => exact ⟨_, exec_keyclr_performed hb⟩
  | encopen => exact ⟨_, exec_encopen_performed hb⟩
  | decopen => exact ⟨_, exec_decopen_performed hb⟩
  | chunk l =>
    obtain ⟨ho, hl⟩ := Bool.and_eq_true_iff.1 ha
    rcases (streamOpen_iff _).1 ho with hm | hm
    · exact ⟨_, exec_chunk_enc hb hm hl⟩
    · exact ⟨_, exec_chunk_dec hb hm hl⟩
  | close => exact ⟨_, exec_close_performed hb⟩

/-- The engine sequencer's step reaches a next state: what is pending was accepted (R196). -/
theorem Inv.exists_engineStep (h : Inv s) : ∃ t, engineStep s = .next t := by
  by_cases hstall : s.rst = true ∨ s.pend = none
  · exact ⟨_, engineStep_stalled hstall⟩
  · obtain ⟨hr, hp⟩ := not_or.1 hstall
    obtain ⟨i, hi⟩ := Option.ne_none_iff_exists'.1 hp
    rw [engineStep_performs (Bool.eq_false_iff.2 hr) hi]
    have hport : SameBlock s { s with bus := none } := by constructor <;> rfl
    exact exists_exec_performed rfl ((h.of_sameBlock hport).pend_accepted i hi)

/-- Settles O56: the host's step always reaches a next state, and the engine sequencer's does under the invariant. -/
theorem stepNeverStops : Obligations.StepNeverStops := by
  intro s h
  unfold step
  cases nextTurn s with
  | host =>
    obtain ⟨t, ht, -⟩ := hostStep_effect { s with schedule := s.schedule.tail }
    exact ⟨t, ht⟩
  | engine =>
    have hturn : SameBlock s { s with schedule := s.schedule.tail } := by constructor <;> rfl
    exact (h.of_sameBlock hturn).exists_engineStep

end Sys2Proof.Machine
end

section
/-! The proofs about the commands of the pipeline: ENCOPEN, DECOPEN, CHUNK and CLOSE accepted and performed, and the
stream state over every step. -/

namespace Sys2Proof.Machine

variable {s t : State} {l : Nat}

/-! Acceptance (R142 to R144, R151). -/

/-- A command that fails a check of acceptance records the error of the first one (R188). -/
theorem exec_rejected {i : Instr} {e : ErrorName} (hb : s.bus ≠ none)
    (hf : firstFailure (acceptanceChecks s i) = some e) : exec i s = .next (recordError e s) := by
  rw [exec_offered i hb, offer, hf]

/-- The checks of R142 and R143 in their order: BUSY, NOKEY, STREAM. -/
theorem offer_openChecks (i : Instr) (s : State) :
    offer i (openChecks s) s =
      if s.busy then recordError .busy s
      else if keyValid s = false then recordError .nokey s
      else if s.stream = .enc ∨ s.stream = .dec then recordError .stream s
      else start i s := by
  simp only [← streamOpen_iff, offer, openChecks]
  cases s.busy with
  | true => rfl
  | false =>
    cases keyValid s with
    | false => rfl
    | true => cases streamOpen s.stream <;> rfl

/-- The checks of R144 in their order: BUSY, STREAM, BADARG. -/
theorem offer_chunkChecks (l : Nat) (s : State) :
    offer (.chunk l) (acceptanceChecks s (.chunk l)) s =
      if s.busy then recordError .busy s
      else if s.stream = .idle ∨ s.stream = .ended then recordError .stream s
      else if 512 < l then recordError .badarg s
      else start (.chunk l) s := by
  simp only [← streamOpen_eq_false, ← chunkLengthOk_eq_false, offer, acceptanceChecks]
  cases s.busy with
  | true => rfl
  | false =>
    cases streamOpen s.stream with
    | false => rfl
    | true => cases chunkLengthOk l <;> rfl

/-- The one check of R151 is BUSY. -/
theorem offer_closeChecks (s : State) :
    offer .close (acceptanceChecks s .close) s = if s.busy then recordError .busy s else start .close s := by
  simp only [offer, acceptanceChecks]
  cases s.busy <;> rfl

/-- Settles O24: the three checks in their order, and the opening of the stream. -/
theorem openCommands : Obligations.OpenCommands := by
  intro s im him
  simp only [List.mem_cons, List.not_mem_nil, or_false] at him
  rcases him with rfl | rfl
  · exact ⟨fun hb => (exec_offered _ hb).trans (congrArg _ (offer_openChecks .encopen s)), exec_encopen_performed⟩
  · exact ⟨fun hb => (exec_offered _ hb).trans (congrArg _ (offer_openChecks .decopen s)), exec_decopen_performed⟩

/-- Settles O25: the three checks in their order. -/
theorem chunkAcceptance : Obligations.ChunkAcceptance := fun l s hb =>
  (exec_offered _ hb).trans (congrArg _ (offer_chunkChecks l s))

/-- Settles O31: the one check, and the close of the stream. -/
theorem closeCommand : Obligations.CloseCommand := fun s =>
  ⟨fun hb => (exec_offered _ hb).trans (congrArg _ (offer_closeChecks s)), exec_close_performed⟩

/-! The completion of CHUNK L, rule by rule (R145 to R149). -/

theorem encryptStep_zero (s : State) : encryptStep 0 s = endStream (outputNothing s) := rfl

theorem encryptStep_short (s : State) (h0 : 0 < l) (hl : l < 512) :
    encryptStep l s = endStream (outputBlock (onWords 128 (scramble 128 s.key) (padBlock l s.buf)) s) :=
  (if_neg (Nat.ne_of_gt h0)).trans (if_pos hl)

theorem encryptStep_full (s : State) : encryptStep 512 s = outputBlock (onWords 128 (scramble 128 s.key) s.buf) s := rfl

theorem decryptStep_short (s : State) (hl : l < 512) : decryptStep l s = endStream (outputNothing s) := if_pos hl

theorem decryptStep_full (s : State) :
    decryptStep 512 s = outputBlock (onWords 128 (unscramble 128 s.key) s.buf) s := rfl

/-- The block that an encrypt stream outputs (R145). -/
theorem scrambleBlock_toList (key : Vector Word 4) (b : Vector Word 128) :
    (onWords 128 (scramble 128 key) b).toList = scramble 128 key b.toList :=
  onWords_all (scramble_length key (by omega) (by simp))

/-- The block that a decrypt stream outputs (R148). -/
theorem unscrambleBlock_toList (key : Vector Word 4) (b : Vector Word 128) :
    (onWords 128 (unscramble 128 key) b).toList = unscramble 128 key b.toList :=
  onWords_all (unscramble_length key (by omega) (by simp))

/-- Settles O26: the full block is scrambled and output. -/
theorem encryptFullChunk : Obligations.EncryptFullChunk := fun s hb hm =>
  ⟨_, (exec_chunk_enc hb hm (by decide)).trans (by rw [encryptStep_full]; rfl), scrambleBlock_toList s.key s.buf⟩

/-- Settles O28: nothing is output and the stream ends. -/
theorem encryptEmptyChunk : Obligations.EncryptEmptyChunk := fun s hb hm =>
  (exec_chunk_enc hb hm (by decide)).trans (by rw [encryptStep_zero]; rfl)

/-- Settles O29: the full block is unscrambled and output. -/
theorem decryptFullChunk : Obligations.DecryptFullChunk := fun s hb hm =>
  ⟨_, (exec_chunk_dec hb hm (by decide)).trans (by rw [decryptStep_full]; rfl), unscrambleBlock_toList s.key s.buf⟩

/-- Settles O30: the chunk is discarded and the stream ends. -/
theorem decryptShortChunk : Obligations.DecryptShortChunk := fun l s hb hm hl =>
  (exec_chunk_dec hb hm ((chunkLengthOk_iff l).2 (by omega))).trans (by rw [decryptStep_short s hl]; rfl)

/-! The stream state (R141). -/

/-- A chunk of 512 bytes keeps the stream open, a shorter one ends it (R141). -/
theorem ChunkEffect.stream_eq (h : ChunkEffect l s t) (hl : chunkLengthOk l = true) :
    t.stream = streamAfter (.chunk l) s.stream := by
  have hle := (chunkLengthOk_iff l).1 hl
  cases h with
  | nothing hlt => exact (if_neg (Nat.ne_of_lt hlt)).symm
  | last b hlt => exact (if_neg (Nat.ne_of_lt hlt)).symm
  | full b hge => exact (if_pos (Nat.le_antisymm hle hge)).symm

/-- A completion moves STREAM as the table says (R141). -/
theorem exec_performed_stream {i : Instr} (hb : s.bus = none) (hx : exec i s = .next t) :
    t.stream = streamAfter i s.stream := by
  rcases exec_performed_cases hb hx with ⟨n, rfl, -, rfl⟩ | ⟨n, rfl, -, rfl⟩ | ⟨rfl, rfl⟩ | ⟨rfl, rfl⟩ | ⟨rfl, rfl⟩ |
    ⟨l, rfl, hl, -, rfl⟩ | ⟨l, rfl, hl, -, rfl⟩ | ⟨rfl, rfl⟩
  · rfl
  · rfl
  · rfl
  · rfl
  · rfl
  · exact (encryptStep_effect l s).stream_eq hl
  · exact (decryptStep_effect l s).stream_eq hl
  · rfl

/-- No write moves STREAM (R141). -/
theorem WriteEffect.stream_eq {wa : BitVec 8} {v : Word} (h : WriteEffect wa v s t) : t.stream = s.stream := by
  cases h with
  | reject e => exact recordError_stream s e
  | _ => rfl

/-- A step of the host moves STREAM only by asserting `rst` (R141, R250). -/
theorem HostEffect.stream_eq (h : HostEffect s t) :
    t.stream = match s.script with | .rst true :: _ => .idle | _ => s.stream := by
  cases h with
  | write wa v rest _ hs _ hw => rw [hs]; exact hw.stream_eq
  | idle hs | read _ _ hs | ignored _ _ _ hs | polled _ hs | waited _ hs | irqWait _ _ hs | reset _ hs
  | release _ hs => simp [hs]

/-- Settles O33: a completion and a step of the host move STREAM as the table says, and a command that is not in the
table fails its check of the stream. -/
theorem streamMovesByTheTable : Obligations.StreamMovesByTheTable := by
  refine ⟨fun s t hstep => ?_, fun s hb hbusy => ⟨fun hk hm => ⟨?_, ?_⟩, fun hm l => ?_, fun hm => ?_⟩⟩
  · cases step_effect hstep with
    | host _ ht he => rw [he.stream_eq, ht]; split <;> simp_all
    | stalled ht hstall => rcases hstall with h | h <;> simp [ht, h]
    | performed i _ ht hr hp hx => simpa [ht, hr, hp] using exec_performed_stream rfl hx
  · exact exec_rejected hb (by simp [acceptanceChecks, openChecks, firstFailure, hbusy, hk, (streamOpen_iff _).2 hm])
  · exact exec_rejected hb (by simp [acceptanceChecks, openChecks, firstFailure, hbusy, hk, (streamOpen_iff _).2 hm])
  · exact exec_rejected hb (by simp [acceptanceChecks, firstFailure, hbusy, (streamOpen_eq_false _).2 hm])
  · exact exec_rejected hb (by simp [acceptanceChecks, firstFailure, hbusy, (streamOpen_iff _).2 hm])

end Sys2Proof.Machine
end

section
/-! The proofs about the bytes of a chunk: its padding, and the block that its completion outputs. -/

namespace Sys2Proof.Machine

variable {s t : State} {u v : List Word} {l : Nat}

/-! Blocks byte by byte (R62). -/

theorem bytesOf_append (v w : List Word) : bytesOf (v ++ w) = bytesOf v ++ bytesOf w := List.flatMap_append

theorem wordsOf_length {b : List Byte} {n : Nat} (hb : b.length = 4 * n) : (wordsOf b).length = n := by
  have h := bytesOf_length (wordsOf b)
  rw [bytesOf_wordsOf hb, hb] at h
  omega

/-- Byte `j` of a block's byte sequence (R62). -/
theorem bytesOf_getElem {j : Nat} (hj : j < (bytesOf v).length) : (bytesOf v)[j] = blockByte v j := by
  rw [bytesOf_length] at hj
  have h := bytesOf_getD (ws := v) (i := j / 4) (k := j % 4) (by omega) (by omega)
  rw [Nat.div_add_mod] at h
  simpa [hj, blockByte] using h

/-- Two blocks of one length with the same bytes are equal. -/
theorem block_ext_of_bytes (hlen : u.length = v.length) (h : ∀ j < 4 * u.length, blockByte u j = blockByte v j) :
    u = v := by
  have hbytes : bytesOf u = bytesOf v :=
    List.ext_getElem (by simp [hlen]) fun j hu hv => by
      rw [bytesOf_getElem hu, bytesOf_getElem hv, h j (by simpa using hu)]
  simpa using congrArg wordsOf hbytes

/-! Padding (R146, R150). -/

@[simp] theorem foldl_setBlockByte_length (c : Byte) (js : List Nat) (v : List Word) :
    (js.foldl (fun u j => setBlockByte u j c) v).length = v.length := by
  induction js generalizing v with
  | nil => rfl
  | cons j js ih => exact (ih _).trans (setBlockByte_length v j c)

@[simp] theorem pad_length (l : Nat) (v : List Word) : (pad l v).length = v.length :=
  foldl_setBlockByte_length _ _ v

/-- One byte written at each index of a list is read back there, and no other byte changes. -/
theorem blockByte_foldl_setBlockByte (c : Byte) (k : Nat) {js : List Nat} (hjs : ∀ j ∈ js, j < 4 * v.length) :
    blockByte (js.foldl (fun u j => setBlockByte u j c) v) k = if k ∈ js then c else blockByte v k := by
  induction js generalizing v with
  | nil => simp
  | cons j js ih =>
    have hrest : ∀ i ∈ js, i < 4 * (setBlockByte v j c).length := by
      rw [setBlockByte_length]
      exact fun i hi => hjs i (List.mem_cons_of_mem j hi)
    rw [List.foldl_cons, ih hrest, blockByte_setBlockByte k c (hjs j List.mem_cons_self)]
    by_cases hk : k ∈ js <;> simp [hk]

/-- R150, byte by byte. -/
theorem blockByte_pad (hv : v.length = 128) {j : Nat} (hj : j < 512) :
    blockByte (pad l v) j = if j < l then blockByte v j else padByte := by
  have hmem (i : Nat) : i ∈ List.range' l (blockBytes - l) ↔ l ≤ i ∧ i < 512 := by
    rw [List.mem_range'_1, blockBytes]
    omega
  rw [pad, blockByte_foldl_setBlockByte]
  · by_cases hlt : j < l
    · rw [if_pos hlt, if_neg (by rw [hmem]; omega)]
    · rw [if_neg hlt, if_pos ((hmem j).2 ⟨by omega, hj⟩)]
  · intro i hi
    rw [hv]
    exact ((hmem i).1 hi).2

/-- The padded block is the chunk's bytes filled up with 0x30 (R150, R152). -/
theorem bytesOf_pad (hv : v.length = 128) (hl : l ≤ 512) :
    bytesOf (pad l v) = (bytesOf v).take l ++ List.replicate (512 - l) padByte := by
  have htake : ((bytesOf v).take l).length = l := by simp [hv]; omega
  refine List.ext_getElem (by simp [hv]; omega) fun j h1 h2 => ?_
  have hj : j < 512 := by simpa [hv] using h1
  rw [bytesOf_getElem h1, blockByte_pad hv hj, List.getElem_append]
  simp only [htake]
  split
  next hlt => rw [List.getElem_take, bytesOf_getElem]
  next hge => rw [List.getElem_replicate]

/-- Settles O35: the padded block byte by byte; its words from its bytes. -/
theorem paddingOfAChunk : Obligations.PaddingOfAChunk := by
  intro l v h0 hl hv
  refine ⟨(pad_length l v).trans hv, fun j hj => blockByte_pad hv hj, fun i hi h128 => ?_, fun u hu huv => ?_⟩
  · have hword : ∀ k < 4, byteOfWord 0x30303030 k = padByte := by decide
    refine word_ext_of_bytes fun k hk => ?_
    have hbyte := blockByte_pad (l := l) hv (show 4 * i + k < 512 by omega)
    rwa [blockByte, show (4 * i + k) / 4 = i by omega, show (4 * i + k) % 4 = k by omega, if_neg (by omega),
      ← hword k hk] at hbyte
  · refine block_ext_of_bytes (by simp [hu, hv]) fun j hj => ?_
    have hj' : j < 512 := by simpa [hu] using hj
    rw [blockByte_pad hu hj', blockByte_pad hv hj']
    split
    next hlt => exact huv j hlt
    next => rfl

theorem padBlock_toList (l : Nat) (b : Vector Word 128) : (padBlock l b).toList = pad l b.toList :=
  onWords_all (by simp)

/-- The block that an encrypt stream outputs for a short chunk (R146). -/
theorem scramblePadBlock_toList (key : Vector Word 4) (l : Nat) (b : Vector Word 128) :
    (onWords 128 (scramble 128 key) (padBlock l b)).toList = scramble 128 key (pad l b.toList) := by
  rw [scrambleBlock_toList, padBlock_toList]

/-- Settles O27: the block is padded byte by byte, scrambled and output. -/
theorem encryptShortChunk : Obligations.EncryptShortChunk := by
  intro l s hb hm h0 hl
  refine ⟨pad l s.buf.toList, _, ?_, scramblePadBlock_toList s.key l s.buf, by simp,
    fun j hj => blockByte_pad (by simp) hj⟩
  rw [exec_chunk_enc hb hm ((chunkLengthOk_iff l).2 hl.le), encryptStep_short s h0 hl]
  rfl

/-! The output of a chunk (R152, R153, R155). -/

/-- What a stream in mode `m` outputs for the chunk `c`: an encrypt stream its encryption, but nothing for the empty
chunk (R147, R152); a decrypt stream the decryption of a full chunk, and nothing for a shorter one (R149, R153). -/
def chunkOutput (m : Stream) (key : Vector Word 4) (c : List Byte) : List Byte :=
  match m with
  | .enc => if c.length = 0 then [] else encryptChunk key c
  | .dec => if c.length < 512 then [] else decryptChunk key c
  | .idle | .ended => []

theorem outputBytes_of_outlen (h : s.outlen = 512) : outputBytes s = bytesOf s.buf.toList := if_pos h

@[simp] theorem outputBytes_outputBlock (b : Vector Word 128) (s : State) :
    outputBytes (outputBlock b s) = bytesOf b.toList := outputBytes_of_outlen rfl

@[simp] theorem outputBytes_outputNothing (s : State) : outputBytes (outputNothing s) = [] :=
  if_neg (by simp)

@[simp] theorem outputBytes_endStream (s : State) : outputBytes (endStream s) = outputBytes s := rfl

@[simp] theorem outputBytes_finish (s : State) : outputBytes (finish s) = outputBytes s := rfl

/-- A chunk of BUF has the length asked for. -/
theorem take_bytesOf_length (b : Vector Word 128) (hl : l ≤ 512) : ((bytesOf b.toList).take l).length = l := by
  simpa using hl

/-- The chunk and the padding of the rest of BUF are what R152 encrypts. -/
theorem encryptChunk_take (key : Vector Word 4) (b : Vector Word 128) (hl : l ≤ 512) :
    encryptChunk key ((bytesOf b.toList).take l) = bytesOf (scramble 128 key (pad l b.toList)) := by
  rw [encryptChunk, take_bytesOf_length b hl, blockBytes, ← bytesOf_pad (by simp) hl, wordsOf_bytesOf]

/-- The output of an encrypt stream is made of the bytes of the chunk alone (R145 to R147). -/
theorem outputBytes_encryptStep (s : State) (hl : l ≤ 512) :
    outputBytes (encryptStep l s) = chunkOutput .enc s.key ((bytesOf s.buf.toList).take l) := by
  rw [chunkOutput, take_bytesOf_length s.buf hl, encryptChunk_take s.key s.buf hl]
  rcases Nat.eq_zero_or_pos l with rfl | h0
  · simp [encryptStep_zero]
  rw [if_neg (by omega)]
  rcases Nat.lt_or_eq_of_le hl with hlt | rfl
  · rw [encryptStep_short s h0 hlt, outputBytes_endStream, outputBytes_outputBlock, scramblePadBlock_toList]
  · rw [encryptStep_full, outputBytes_outputBlock, scrambleBlock_toList]
    rfl

/-- The output of a decrypt stream is made of the bytes of the chunk alone (R148, R149). -/
theorem outputBytes_decryptStep (s : State) (hl : l ≤ 512) :
    outputBytes (decryptStep l s) = chunkOutput .dec s.key ((bytesOf s.buf.toList).take l) := by
  rw [chunkOutput, take_bytesOf_length s.buf hl]
  rcases Nat.lt_or_eq_of_le hl with hlt | rfl
  · simp [decryptStep_short s hlt, hlt]
  · rw [decryptStep_full, outputBytes_outputBlock, unscrambleBlock_toList, if_neg (by omega),
      List.take_of_length_le (by simp), decryptChunk, wordsOf_bytesOf]

/-- A CHUNK performed is the completion of one of the two stream modes (R144). -/
theorem exec_chunk_cases (hb : s.bus = none) (hx : exec (.chunk l) s = .next t) :
    l ≤ 512 ∧ ((s.stream = .enc ∧ t = finish (encryptStep l s)) ∨ (s.stream = .dec ∧ t = finish (decryptStep l s))) := by
  have h := exec_performed_cases hb hx
  simp only [reduceCtorEq, Instr.chunk.injEq, false_and, exists_const, false_or, or_false, exists_eq_left',
    chunkLengthOk_iff] at h
  exact ⟨h.elim And.left And.left, h.imp And.right And.right⟩

/-- A performed CHUNK outputs what its stream outputs for the first L bytes of BUF. -/
theorem exec_chunk_output (hb : s.bus = none) (hx : exec (.chunk l) s = .next t) :
    outputBytes t = chunkOutput s.stream s.key ((bytesOf s.buf.toList).take l) := by
  obtain ⟨hl, ⟨hm, rfl⟩ | ⟨hm, rfl⟩⟩ := exec_chunk_cases hb hx
  · rw [hm, outputBytes_finish, outputBytes_encryptStep s hl]
  · rw [hm, outputBytes_finish, outputBytes_decryptStep s hl]

/-- Settles O37: the chunk that a stream outputs something for is not empty in an encrypt stream, and full in a decrypt
stream. -/
theorem chunkOutputIsTheChunkTransformed : Obligations.ChunkOutputIsTheChunkTransformed := by
  intro l s t hb hx hout
  have hne : outputBytes t ≠ [] := by
    rw [outputBytes_of_outlen hout]
    exact List.ne_nil_of_length_pos (by simp)
  have hm : s.stream = .enc ∨ s.stream = .dec := (exec_chunk_cases hb hx).2.imp And.left And.left
  rw [exec_chunk_output hb hx] at hne ⊢
  rcases hm with hm | hm <;> rw [hm, chunkOutput] at hne ⊢
  · rw [if_neg fun h => hne (if_pos h), if_pos rfl]
  · rw [if_neg fun h => hne (if_pos h), if_neg (by decide)]

end Sys2Proof.Machine
end

section
/-! The proofs about whole streams: the chunks of an input, `EncryptStream` and `DecryptStream` chunk by chunk, and the
host that hands a whole input to a stream. -/

namespace Sys2Proof.Machine

variable {s t : State} {m : Stream} {key : Vector Word 4} {c d : List Byte} {l k : Nat}

/-! The chunks of an input (R152, R156). -/

/-- Induction over the chunks of an input: the last one, with fewer than 512 bytes, and a full one before the rest. -/
theorem chunk_induction {P : List Byte → Prop} (short : ∀ d, d.length < 512 → P d)
    (full : ∀ c d, c.length = 512 → P d → P (c ++ d)) (d : List Byte) : P d := by
  induction hn : d.length using Nat.strong_induction_on generalizing d with
  | _ n ih =>
    by_cases hlt : d.length < 512
    · exact short d hlt
    · have hrest : P (d.drop 512) := ih (d.drop 512).length (by simp; omega) _ rfl
      have h := full (d.take 512) (d.drop 512) (by simp; omega) hrest
      rwa [List.take_append_drop] at h

theorem chunkAt_zero (hd : d.length ≤ 512) : chunkAt d 0 = d := by
  simpa [chunkAt] using hd

theorem chunkAt_append_zero (hc : c.length = 512) : chunkAt (c ++ d) 0 = c := by
  simp [chunkAt, ← hc]

theorem chunkAt_append_succ (hc : c.length = 512) (i : Nat) : chunkAt (c ++ d) (i + 1) = chunkAt d i := by
  rw [chunkAt, show 512 * (i + 1) = c.length + 512 * i by omega, List.drop_length_add_append, chunkAt]

theorem chunksOf_short (hd : d.length < 512) : chunksOf d = [d] := by
  simp [chunksOf, Nat.div_eq_of_lt hd, chunkAt_zero hd.le]

theorem chunksOf_append (hc : c.length = 512) : chunksOf (c ++ d) = c :: chunksOf d := by
  have hcount : (c ++ d).length / 512 + 1 = d.length / 512 + 1 + 1 := by rw [List.length_append]; omega
  rw [chunksOf, hcount, List.range_succ_eq_map, List.map_cons, List.map_map, chunkAt_append_zero hc]
  simp only [Function.comp_def, chunkAt_append_succ hc, chunksOf]

/-! `EncryptStream` and `DecryptStream` chunk by chunk (R152, R153). -/

theorem encryptStream_nil (key : Vector Word 4) : encryptStream key [] = [] := rfl

theorem encryptStream_short (hpos : 0 < d.length) (hd : d.length < 512) : encryptStream key d = encryptChunk key d := by
  have hcount : (d.length + 511) / 512 = 1 := by omega
  simp [encryptStream, hcount, chunkAt_zero hd.le]

theorem encryptStream_append (hc : c.length = 512) :
    encryptStream key (c ++ d) = encryptChunk key c ++ encryptStream key d := by
  have hcount : ((c ++ d).length + 511) / 512 = (d.length + 511) / 512 + 1 := by rw [List.length_append]; omega
  rw [encryptStream, hcount, List.range_succ_eq_map, List.flatMap_cons, List.flatMap_map, chunkAt_append_zero hc]
  simp only [chunkAt_append_succ hc, encryptStream]

theorem decryptStream_short (hd : d.length < 512) : decryptStream key d = [] := by
  simp [decryptStream, Nat.div_eq_of_lt hd]

theorem decryptStream_append (hc : c.length = 512) :
    decryptStream key (c ++ d) = decryptChunk key c ++ decryptStream key d := by
  have hcount : (c ++ d).length / 512 = d.length / 512 + 1 := by rw [List.length_append]; omega
  rw [decryptStream, hcount, List.range_succ_eq_map, List.flatMap_cons, List.flatMap_map, chunkAt_append_zero hc]
  simp only [chunkAt_append_succ hc, decryptStream]

/-- A chunk filled up with 0x30 is a block (R152). -/
theorem paddedChunk_length (hc : c.length ≤ 512) :
    (c ++ List.replicate (blockBytes - c.length) padByte).length = 4 * 128 := by
  simp [blockBytes]
  omega

theorem encryptChunk_length (hc : c.length ≤ 512) : (encryptChunk key c).length = 512 := by
  rw [encryptChunk, bytesOf_length, scramble_length key (by omega) (wordsOf_length (paddedChunk_length hc))]

theorem decryptChunk_length (hc : c.length = 512) : (decryptChunk key c).length = 512 := by
  rw [decryptChunk, bytesOf_length, unscramble_length key (by omega) (wordsOf_length (n := 128) hc)]

theorem encryptStream_length (key : Vector Word 4) (d : List Byte) :
    (encryptStream key d).length = 512 * ((d.length + 511) / 512) := by
  induction d using chunk_induction with
  | short d hd =>
    rcases Nat.eq_zero_or_pos d.length with h0 | hpos
    · rw [List.eq_nil_of_length_eq_zero h0]; rfl
    · rw [encryptStream_short hpos hd, encryptChunk_length hd.le]
      omega
  | full c d hc ih =>
    rw [encryptStream_append hc, List.length_append, List.length_append, encryptChunk_length hc.le, ih, hc]
    omega

theorem decryptStream_length (key : Vector Word 4) (d : List Byte) :
    (decryptStream key d).length = 512 * (d.length / 512) := by
  induction d using chunk_induction with
  | short d hd => simp [decryptStream_short hd, Nat.div_eq_of_lt hd]
  | full c d hc ih =>
    rw [decryptStream_append hc, List.length_append, List.length_append, decryptChunk_length hc, ih, hc]
    omega

/-- "the trailing ℓ mod 512 bytes are ignored" (R153). -/
theorem decryptStream_take (key : Vector Word 4) (d : List Byte) :
    decryptStream key (d.take (512 * (d.length / 512))) = decryptStream key d := by
  induction d using chunk_induction with
  | short d hd => simp [decryptStream_short, hd, Nat.div_eq_of_lt hd]
  | full c d hc ih =>
    have hcount : 512 * ((c ++ d).length / 512) = c.length + 512 * (d.length / 512) := by
      rw [List.length_append]; omega
    rw [hcount, List.take_length_add_append, decryptStream_append hc, decryptStream_append hc, ih]

/-! The round trip (R154). -/

/-- A decrypted block of an encrypt stream is the chunk with its padding (R110, R154). -/
theorem decryptChunk_encryptChunk (hc : c.length ≤ 512) :
    decryptChunk key (encryptChunk key c) = c ++ List.replicate (512 - c.length) padByte := by
  have hpad := paddedChunk_length hc
  rw [decryptChunk, encryptChunk, wordsOf_bytesOf, unscramble_scramble key (by omega) (wordsOf_length hpad),
    bytesOf_wordsOf hpad, blockBytes]

theorem decryptStream_encryptStream (key : Vector Word 4) (d : List Byte) :
    decryptStream key (encryptStream key d) = d ++ List.replicate ((512 - d.length % 512) % 512) padByte := by
  induction d using chunk_induction with
  | short d hd =>
    rcases Nat.eq_zero_or_pos d.length with h0 | hpos
    · obtain rfl := List.eq_nil_of_length_eq_zero h0
      rw [encryptStream_nil, decryptStream_short hd]
      rfl
    · have hlen : (encryptChunk key d).length = 512 := encryptChunk_length hd.le
      have hone := decryptStream_append (key := key) (d := []) hlen
      rw [List.append_nil, decryptStream_short (d := []) (by simp), List.append_nil] at hone
      rw [encryptStream_short hpos hd, hone, decryptChunk_encryptChunk hd.le, Nat.mod_eq_of_lt hd,
        Nat.mod_eq_of_lt (by omega)]
  | full c d hc ih =>
    rw [encryptStream_append hc, decryptStream_append (encryptChunk_length hc.le), decryptChunk_encryptChunk hc.le, ih,
      hc, Nat.sub_self, List.replicate_zero, List.append_nil, List.append_assoc, List.length_append, hc,
      Nat.add_mod_left]

/-- Block `i` of an encrypted stream is chunk `i` encrypted (R152). -/
theorem chunkAt_encryptStream (key : Vector Word 4) (d : List Byte) {i : Nat} (hi : 512 * i < d.length) :
    chunkAt (encryptStream key d) i = encryptChunk key (chunkAt d i) := by
  induction d using chunk_induction generalizing i with
  | short d hd =>
    obtain rfl : i = 0 := by omega
    rw [encryptStream_short (by omega) hd, chunkAt_zero (encryptChunk_length hd.le).le, chunkAt_zero hd.le]
  | full c d hc ih =>
    have hlen : (encryptChunk key c).length = 512 := encryptChunk_length hc.le
    rw [encryptStream_append hc]
    cases i with
    | zero => rw [chunkAt_append_zero hlen, chunkAt_append_zero hc]
    | succ i =>
      rw [chunkAt_append_succ hlen, chunkAt_append_succ hc]
      exact ih (by rw [List.length_append, hc] at hi; omega)

/-- Settles O40: chunk by chunk the inverse property, and each block depends on its chunk alone. -/
theorem streamRoundTrip : Obligations.StreamRoundTrip := by
  intro key d
  have htrip := decryptStream_encryptStream key d
  refine ⟨htrip, ?_, fun i j hi hj hij => ?_⟩
  · rw [htrip, List.append_right_eq_self, List.replicate_eq_nil_iff]
    omega
  · rw [chunkAt_encryptStream key d (by omega), chunkAt_encryptStream key d (by omega), hij]

/-! The outputs of a stream, chunk by chunk (R152, R153). -/

/-- The outputs that a stream in mode `m` makes of the chunks of `d`, one after the other. -/
def streamOutput (m : Stream) (key : Vector Word 4) (d : List Byte) : List Byte :=
  (chunksOf d).flatMap (chunkOutput m key)

theorem streamOutput_short (hd : d.length < 512) : streamOutput m key d = chunkOutput m key d := by
  simp [streamOutput, chunksOf_short hd]

theorem streamOutput_append (hc : c.length = 512) :
    streamOutput m key (c ++ d) = chunkOutput m key c ++ streamOutput m key d := by
  simp [streamOutput, chunksOf_append hc]

theorem streamOutput_enc (key : Vector Word 4) (d : List Byte) : streamOutput .enc key d = encryptStream key d := by
  induction d using chunk_induction with
  | short d hd =>
    rw [streamOutput_short hd, chunkOutput]
    split
    next h0 => rw [List.eq_nil_of_length_eq_zero h0, encryptStream_nil]
    next h0 => rw [encryptStream_short (by omega) hd]
  | full c d hc ih => rw [streamOutput_append hc, encryptStream_append hc, ih, chunkOutput, if_neg (by omega)]

theorem streamOutput_dec (key : Vector Word 4) (d : List Byte) : streamOutput .dec key d = decryptStream key d := by
  induction d using chunk_induction with
  | short d hd => rw [streamOutput_short hd, chunkOutput, if_pos hd, decryptStream_short hd]
  | full c d hc ih => rw [streamOutput_append hc, decryptStream_append hc, ih, chunkOutput, if_neg (by omega)]

end Sys2Proof.Machine
end

section
/-! The proofs about the host of a stream: the bytes of a chunk written to BUF, a chunk handed over, and a whole input
handed over between the opening of a stream and its end. -/

namespace Sys2Proof.Machine

variable {s t u : State} {m : Stream} {c d : List Byte} {l : Nat}

/-! The bytes of a chunk in BUF (R89, R194). -/

/-- The writes of `loadwords` from word `k` on put the words there and change nothing else of the block (R89, R194). -/
theorem accessAll_writes (ws : List Word) {k : Nat} (hk : k + ws.length ≤ 128) (hr : s.rst = false)
    (hb : s.busy = false) :
    ∃ (b : Vector Word 128) (a : Option Access),
      accessAll ((ws.zipIdx k).map fun wi => .write (BitVec.ofNat 8 (0x80 + wi.2)) wi.1) s =
        .next { s with buf := b, bus := a } ∧
      b.toList = s.buf.toList.take k ++ ws ++ s.buf.toList.drop (k + ws.length) := by
  induction ws generalizing s k with
  | nil => exact ⟨s.buf, s.bus, rfl, by simp⟩
  | cons w ws ih =>
    rw [List.length_cons] at hk
    have hwrite := access_write_buf ⟨k, by omega⟩ w hr hb (regAt_buf _)
    obtain ⟨b, a, hrest, hbuf⟩ := ih (s := writeBufWord ⟨k, by omega⟩ w
      { s with bus := some (.write (BitVec.ofNat 8 (0x80 + k)) w) }) (k := k + 1) (by omega) hr hb
    refine ⟨b, a, ?_, ?_⟩
    · rw [List.zipIdx_cons, List.map_cons, accessAll, hwrite]
      exact hrest
    · have hlen : s.buf.toList.length = 128 := by simp
      rw [hbuf, writeBufWord_buf, Vector.toList_set]
      generalize s.buf.toList = v at hlen
      have htake : (v.set k w).take (k + 1) = v.take k ++ [w] := by
        rw [List.set_eq_take_append_cons_drop, if_pos (by omega), List.append_cons,
          List.take_left' (by simp [hlen]; omega)]
      have hdrop : (v.set k w).drop (k + 1 + ws.length) = v.drop (k + (ws.length + 1)) := by
        rw [List.drop_set_of_lt (by omega), Nat.add_right_comm, Nat.add_assoc]
      simp [htake, hdrop]

/-- A chunk filled up with zeros is a number of whole words (R89). -/
theorem fillWord_length (c : List Byte) : (fillWord c).length = 4 * ((c.length + 3) / 4) := by
  simp [fillWord]
  omega

/-- After `loadbytes` the first bytes of BUF are those of the chunk (R89). -/
theorem accessAll_loadBytes (hc : c.length ≤ 512) (hr : s.rst = false) (hb : s.busy = false) :
    ∃ (b : Vector Word 128) (a : Option Access),
      accessAll (loadBytes c) s = .next { s with buf := b, bus := a } ∧ (bytesOf b.toList).take c.length = c := by
  have hlen : (wordsOf (fillWord c)).length = (c.length + 3) / 4 := wordsOf_length (fillWord_length c)
  obtain ⟨b, a, hall, hbuf⟩ := accessAll_writes (wordsOf (fillWord c)) (k := 0) (by omega) hr hb
  refine ⟨b, a, hall, ?_⟩
  rw [hbuf, List.take_zero, List.nil_append, bytesOf_append, bytesOf_wordsOf (fillWord_length c), fillWord,
    List.append_assoc, List.take_left]

/-! A chunk handed over (R144 to R149, R156). -/

/-- What a part of a stream that outputs `out` makes of the block: nothing is pending afterwards, ERR and the key are as
before, and BLKCNT has counted the blocks output (R27). -/
structure Streamed (out : List Byte) (s t : State) : Prop where
  rst : t.rst = false
  busy : t.busy = false
  err : t.err = s.err
  key : t.key = s.key
  blkcnt : t.blkcnt = s.blkcnt + BitVec.ofNat 32 (out.length / 512)

theorem Streamed.trans {o o' : List Byte} (h : Streamed o s t) (h' : Streamed o' t u) (hblocks : 512 ∣ o.length) :
    Streamed (o ++ o') s u where
  rst := h'.rst
  busy := h'.busy
  err := h'.err.trans h.err
  key := h'.key.trans h.key
  blkcnt := by
    rw [h'.blkcnt, h.blkcnt, BitVec.add_assoc, ← BitVec.ofNat_add, List.length_append,
      Nat.add_div_of_dvd_right hblocks]

/-- The host writes out whole blocks (R155). -/
theorem dvd_outputBytes_length (s : State) : 512 ∣ (outputBytes s).length := by
  rw [outputBytes]
  split <;> simp

/-- A completed chunk counts the block it outputs (R145 to R149). -/
theorem ChunkEffect.streamed (h : ChunkEffect l s t) (hr : s.rst = false) :
    Streamed (outputBytes t) s (finish t) := by
  cases h with
  | nothing _ => exact ⟨hr, rfl, rfl, rfl, by simp⟩
  | last b _ => exact ⟨hr, rfl, rfl, rfl, by simp⟩
  | full b _ => exact ⟨hr, rfl, rfl, rfl, by simp⟩

/-- CHUNK performed in an open stream reaches a next state, outputs what the stream outputs for the first L bytes of BUF
and moves STREAM by the table. -/
theorem exec_chunk_streamed (hb : s.bus = none) (hr : s.rst = false) (hopen : streamOpen s.stream = true)
    (hl : l ≤ 512) :
    ∃ t, exec (.chunk l) s = .next t ∧ t.stream = streamAfter (.chunk l) s.stream ∧
      outputBytes t = chunkOutput s.stream s.key ((bytesOf s.buf.toList).take l) ∧ Streamed (outputBytes t) s t := by
  obtain ⟨t, hx⟩ := exists_exec_performed (i := .chunk l) hb
    (by rw [accepted, hopen, (chunkLengthOk_iff l).2 hl]; rfl)
  refine ⟨t, hx, exec_performed_stream hb hx, exec_chunk_output hb hx, ?_⟩
  obtain ⟨-, ⟨-, rfl⟩ | ⟨-, rfl⟩⟩ := exec_chunk_cases hb hx
  · exact (encryptStep_effect l s).streamed hr
  · exact (decryptStep_effect l s).streamed hr

/-- A chunk handed to an open stream: its output is made of the chunk. -/
theorem handOver_streamed (hc : c.length ≤ 512) (hr : s.rst = false) (hb : s.busy = false)
    (hopen : streamOpen s.stream = true) :
    ∃ t, handOver c s = .next t ∧ t.stream = streamAfter (.chunk c.length) s.stream ∧
      outputBytes t = chunkOutput s.stream s.key c ∧ Streamed (outputBytes t) s t := by
  obtain ⟨b, a, hload, hbytes⟩ := accessAll_loadBytes hc hr hb
  have hd : decode (encode (.chunk c.length)) = .ok (.chunk c.length) :=
    decode_encode ((wellFormed_iff _).2 (show c.length < 1024 by omega))
  have hf : firstFailure (acceptanceChecks { s with buf := b, bus := a } (.chunk c.length)) = none := by
    simp [acceptanceChecks, firstFailure, hb, hopen, (chunkLengthOk_iff _).2 hc]
  have hcmd := command_performs hd (by exact hr) hf
  obtain ⟨t, hx, hstream, hout, hst⟩ := exec_chunk_streamed (l := c.length)
    (s := start (.chunk c.length) { s with buf := b, bus := none }) rfl hr hopen hc
  refine ⟨t, ?_, hstream, hout.trans (congrArg _ hbytes), ⟨hst.rst, hst.busy, hst.err, hst.key, hst.blkcnt⟩⟩
  rw [handOver, hload]
  exact hcmd.trans hx

/-! A whole input (R152, R153, R156). -/

/-- The chunks of an input handed to an open stream: the outputs in order, and the stream has ended. -/
theorem handOverAll_streamed (d : List Byte) (hr : s.rst = false) (hb : s.busy = false)
    (hopen : streamOpen s.stream = true) :
    ∃ t, handOverAll (chunksOf d) s = some (t, streamOutput s.stream s.key d) ∧ t.stream = .ended ∧
      Streamed (streamOutput s.stream s.key d) s t := by
  induction d using chunk_induction generalizing s with
  | short d hd =>
    obtain ⟨t, hover, hstream, hout, hst⟩ := handOver_streamed hd.le hr hb hopen
    refine ⟨t, ?_, hstream.trans (if_neg (Nat.ne_of_lt hd)), ?_⟩
    · rw [streamOutput_short hd, ← hout, chunksOf_short hd]
      simp [handOverAll, hover]
    · rwa [streamOutput_short hd, ← hout]
  | full c d hc ih =>
    obtain ⟨t, hover, hstream, hout, hst⟩ := handOver_streamed hc.le hr hb hopen
    replace hstream : t.stream = s.stream := hstream.trans (if_pos hc)
    obtain ⟨u, hrest, hend, hsu⟩ := ih hst.rst hst.busy (hstream ▸ hopen)
    rw [hstream, hst.key] at hrest hsu
    refine ⟨u, ?_, hend, ?_⟩
    · rw [streamOutput_append hc, ← hout, chunksOf_append hc]
      simp [handOverAll, hover, hrest]
    · rw [streamOutput_append hc, ← hout]
      exact hst.trans hsu (dvd_outputBytes_length t)

/-- ENCOPEN and DECOPEN are accepted in a state ready for a stream (R142, R143, R259). -/
theorem StreamReady.firstFailure_openChecks (h : StreamReady s) : firstFailure (openChecks s) = none := by
  simp [firstFailure, openChecks, h.busy, h.key, h.closed]

theorem StreamReady.command_encopen (h : StreamReady s) :
    command .encopen s = .next (finish (openStream .enc (start .encopen { s with bus := none }))) :=
  (command_performs (i := .encopen) (decode_encode rfl) h.rst h.firstFailure_openChecks).trans
    (exec_encopen_performed rfl)

theorem StreamReady.command_decopen (h : StreamReady s) :
    command .decopen s = .next (finish (openStream .dec (start .decopen { s with bus := none }))) :=
  (command_performs (i := .decopen) (decode_encode rfl) h.rst h.firstFailure_openChecks).trans
    (exec_decopen_performed rfl)

/-- A whole stream after a command that opens it: the outputs are those of the input's chunks, and BLKCNT counts them
from 0. -/
theorem StreamReady.streamRun_eq (h : StreamReady s) {i : Instr} (hopen : streamOpen m = true)
    (hcmd : command i s = .next (finish (openStream m (start i { s with bus := none })))) (d : List Byte) :
    ∃ t, streamRun i d s = some (t, streamOutput m s.key d) ∧ t.stream = .ended ∧ t.err = 0x00 ∧ t.key = s.key ∧
      t.busy = false ∧ t.blkcnt = BitVec.ofNat 32 ((streamOutput m s.key d).length / 512) := by
  obtain ⟨t, hall, hend, hst⟩ := handOverAll_streamed
    (s := finish (openStream m (start i { s with bus := none }))) d h.rst rfl hopen
  refine ⟨t, ?_, hend, hst.err.trans h.err, hst.key, hst.busy, ?_⟩
  · rw [streamRun, hcmd]
    exact hall
  · exact hst.blkcnt.trans (BitVec.zero_add _)

/-- Settles O38: the outputs of the chunks are `EncryptStream`, and its length counts the blocks. -/
theorem encryptStreamIsWhatTheHostWrites : Obligations.EncryptStreamIsWhatTheHostWrites := by
  refine ⟨fun d s h => ?_, encryptStream_length, encryptStream_nil⟩
  have hrun := h.streamRun_eq rfl h.command_encopen d
  rwa [streamOutput_enc, encryptStream_length, Nat.mul_div_cancel_left _ (by decide)] at hrun

/-- Settles O39: the outputs of the chunks are `DecryptStream`, and its length counts the blocks. -/
theorem decryptStreamIsWhatTheHostWrites : Obligations.DecryptStreamIsWhatTheHostWrites := by
  refine ⟨fun d s h => ?_, fun key d => ⟨decryptStream_length key d, (decryptStream_take key d).symm⟩⟩
  have hrun := h.streamRun_eq rfl h.command_decopen d
  rwa [streamOutput_dec, decryptStream_length, Nat.mul_div_cancel_left _ (by decide)] at hrun

end Sys2Proof.Machine
end

section
/-! The proofs about the register interface: errors, the host's reads and writes register by register, the acceptance
of a command and KEYCLR. -/

namespace Sys2Proof.Machine

variable {s : State} {wa : BitVec 8} {v : Word}

/-! The error register (R198). -/

theorem recordError_of_clear (e : ErrorName) (h : s.err = 0x00) : recordError e s = { s with err := errorCode e } :=
  if_pos h

theorem recordError_of_recorded (e : ErrorName) (h : s.err ≠ 0x00) : recordError e s = s := if_neg h

/-- After `recordError` an error is recorded, the one there was or the new one (R198). -/
theorem recordError_err_ne_zero (e : ErrorName) (s : State) : (recordError e s).err ≠ 0x00 := by
  rw [recordError_err]
  split
  next => exact errorCode_ne_zero e
  next h => exact h

/-- Settles O50: the second error finds the first one recorded. -/
theorem firstErrorIsKept : Obligations.FirstErrorIsKept :=
  ⟨fun s e => ⟨recordError_of_clear e, recordError_of_recorded e,
    fun e' => recordError_of_recorded e' (recordError_err_ne_zero e s)⟩, rfl, rfl, rfl, rfl, rfl, rfl⟩

/-! What each register reads as with `rst` released (R181 to R195). -/

theorem readValue_released (wa : BitVec 8) (hr : s.rst = false) : readValue wa s = readReg wa s :=
  if_neg (by simp [hr])

/-- A read that takes no free value changes the port and the values read alone (R65). -/
theorem access_read_register (hr : s.rst = false) (hbuf : s.busy = false ∨ ∀ i, regAt wa ≠ .buf i) :
    access (.read wa) s = .next { s with bus := some (.read wa), reads := readReg wa s :: s.reads } := by
  have hdraws : readDraws wa { s with bus := some (.read wa) } = false := by
    rcases hbuf with hb | hbuf
    · simp [readDraws, hr, hb]
    · cases hreg : regAt wa with
      | buf i => exact absurd hreg (hbuf i)
      | _ => simp [readDraws, hr, hreg]
  rw [access_read, hostRead, hdraws, readValue_released wa (by exact hr)]
  rfl

/-- A read of a register outside BUF is answered in every state with the register's value (R65). -/
theorem access_read_eq {r : Reg} (hr : s.rst = false) (hwa : regAt wa = r) (hbuf : ∀ i, r ≠ .buf i)
    (hv : readReg wa s = v) : access (.read wa) s = .next { s with bus := some (.read wa), reads := v :: s.reads } := by
  rw [access_read_register hr (.inr (hwa ▸ hbuf)), hv]

/-- STATUS is the sum of its flags, each at its bit (R183). -/
theorem statusWord_eq (s : State) :
    statusWord s = (if s.busy then 1 else 0) ||| (if s.done then 2 else 0) ||| (if keyValid s then 4 else 0)
      ||| ((streamBits s.stream).setWidth 32 <<< 4) := by
  rw [statusWord]
  generalize s.busy = b, s.done = d, keyValid s = k, streamBits s.stream = m
  decide +revert

theorem ctrlWord_eq (s : State) : ctrlWord s = if s.ie then 1 else 0 := by
  rw [ctrlWord]
  cases s.ie <;> rfl

/-- Settles O42: each of the four addresses reads as its register's word. -/
theorem controlRegisterReads : Obligations.ControlRegisterReads := by
  refine fun s hr => ⟨fun wa v hmem => ?_, rfl, rfl, rfl, rfl⟩
  simp only [List.mem_cons, List.not_mem_nil, or_false, Prod.mk.injEq] at hmem
  rcases hmem with ⟨rfl, rfl⟩ | ⟨rfl, rfl⟩ | ⟨rfl, rfl⟩ | ⟨rfl, rfl⟩
  · exact access_read_eq (r := .ctrl) hr rfl nofun (ctrlWord_eq s)
  · exact access_read_eq (r := .status) hr rfl nofun (statusWord_eq s)
  · exact access_read_eq (r := .err) hr rfl nofun rfl
  · exact access_read_eq (r := .cmd) hr rfl nofun rfl

/-! What each register makes of a write with `rst` released (R182 to R195). -/

theorem access_write_register (wa : BitVec 8) (v : Word) (hr : s.rst = false) :
    access (.write wa v) s = writeReg wa v { s with bus := some (.write wa v) } := by
  simp [access, hr]

/-- A write to STATUS clears DONE when bit 1 of the value is 1 (R184). -/
theorem writeReg_status (v : Word) (s : State) :
    writeReg 0x01 v s = .next { s with done := if v.getLsbD 1 then false else s.done } := by
  change Host.Outcome.next (if v.getLsbD 1 then { s with done := false } else s) = _
  split <;> rfl

/-- Settles O43: the effect of each of the three registers. -/
theorem controlRegisterWrites : Obligations.ControlRegisterWrites := fun _ v hr =>
  ⟨access_write_register 0x00 v hr, (access_write_register 0x01 v hr).trans (writeReg_status v _),
    access_write_register 0x02 v hr⟩

/-- Settles O44: both registers read as they are and take no write. -/
theorem outlenAndBlkcntAreReadOnly : Obligations.OutlenAndBlkcntAreReadOnly := fun _ v hr =>
  ⟨access_read_eq (r := .outlen) hr rfl nofun rfl, access_read_eq (r := .blkcnt) hr rfl nofun rfl,
    access_write_register 0x04 v hr, access_write_register 0x05 v hr⟩

/-- Settles O47: the address of a hole names no register. -/
theorem unmappedWordsAreInert : Obligations.UnmappedWordsAreInert := by
  intro s wa v hr hhole
  have hwa : regAt wa = .unmapped := (regAt_eq_unmapped_iff wa).2 hhole
  refine ⟨access_read_eq hr hwa nofun ?_, ?_⟩
  · rw [readReg, hwa]
  · rw [access_write_register wa v hr, writeReg, hwa]

/-! KEY[i] and BUF[i] (R191 to R194). -/

theorem vector_getElem_set {n : Nat} (b : Vector Word n) (i j : Fin n) (v : Word) :
    (b.set i v)[j] = if j = i then v else b[j] := by
  simp [Vector.getElem_set, Fin.ext_iff, eq_comm]

/-- The checks of a write to KEY[i] in their order: BUSY, KEYLOCK (R192). -/
theorem writeKey_eq (i : Fin 4) (v : Word) (s : State) :
    writeKey i v s =
      if s.busy then recordError .busy s
      else if s.stream = .enc ∨ s.stream = .dec then recordError .keylock s
      else writeKeyWord i v s := by
  simp only [← streamOpen_iff, writeKey]
  cases s.busy with
  | true => rfl
  | false => cases streamOpen s.stream <;> rfl

/-- The one check of a write to BUF[i] is BUSY (R194). -/
theorem writeBuf_eq (i : Fin 128) (v : Word) (s : State) :
    writeBuf i v s = if s.busy then recordError .busy s else writeBufWord i v s := by
  rw [writeBuf]
  cases s.busy <;> rfl

theorem access_write_key (i : Fin 4) (hr : s.rst = false) (hwa : regAt wa = .key i) :
    access (.write wa v) s = .next (writeKey i v { s with bus := some (.write wa v) }) := by
  rw [access_write_register wa v hr, writeReg, hwa]

theorem access_write_bufWord (i : Fin 128) (hr : s.rst = false) (hwa : regAt wa = .buf i) :
    access (.write wa v) s = .next (writeBuf i v { s with bus := some (.write wa v) }) := by
  rw [access_write_register wa v hr, writeReg, hwa]

/-- A write to KEY[i] sets bit i of KEYWR and no other (R192). -/
theorem writeKeyWord_keywr_bit (i j : Fin 4) (v : Word) (s : State) :
    (writeKeyWord i v s).keywr.getLsbD j.val = (decide (j = i) || s.keywr.getLsbD j.val) := by
  rw [writeKeyWord_keywr]
  generalize s.keywr = k
  decide +revert

/-- KEYV is 1 once all four bits of KEYWR are set (R28, R192). -/
theorem keyValid_iff_forall_bit (s : State) : keyValid s = true ↔ ∀ j : Fin 4, s.keywr.getLsbD j.val = true := by
  rw [keyValid_iff]
  generalize s.keywr = k
  decide +revert

/-- After a write to KEY[i] the key is valid when the other three words had been written (R192). -/
theorem keyValid_writeKeyWord (i : Fin 4) (v : Word) (s : State) :
    keyValid (writeKeyWord i v s) = true ↔ ∀ j : Fin 4, j ≠ i → s.keywr.getLsbD j.val = true := by
  simp only [keyValid_iff_forall_bit, writeKeyWord_keywr_bit, Bool.or_eq_true, decide_eq_true_iff, or_iff_not_imp_left]

/-- Settles O45: the read, and the write by its two checks. -/
theorem keyRegisterAccess : Obligations.KeyRegisterAccess := by
  intro s i v hr
  have hwa := regAt_key i
  have hwrite := access_write_key (v := v) i hr hwa
  rw [writeKey_eq] at hwrite
  refine ⟨access_read_eq hr hwa nofun ?_, fun hb => ?_, fun hb hm => ?_, fun hb hm => ?_⟩
  · rw [readReg, hwa]
  · rw [hwrite, if_pos hb]
  · rw [hwrite, if_neg (by simp [hb]), if_pos hm]
  · have hclosed : ¬ (s.stream = .enc ∨ s.stream = .dec) := by rcases hm with hm | hm <;> simp [hm]
    rw [if_neg (by simp [hb]), if_neg hclosed] at hwrite
    exact ⟨_, hwrite, rfl, fun j => vector_getElem_set s.key i j v, fun j => writeKeyWord_keywr_bit i j v _,
      keyValid_writeKeyWord i v _⟩

/-- A read of BUF[i] while nothing is pending returns the word, and while a command is pending a free value (R193). -/
theorem readReg_buf (i : Fin 128) (hwa : regAt wa = .buf i) :
    readReg wa s = if s.busy then Config.busyRead s.draws else s.buf[i] := by
  rw [readReg, hwa]

/-- While a command is pending a read of BUF[i] takes a free value (R193). -/
theorem access_read_buf_busy (i : Fin 128) (hr : s.rst = false) (hwa : regAt wa = .buf i) (hb : s.busy = true) :
    access (.read wa) s = .next
      { s with bus := some (.read wa), reads := Config.busyRead s.draws :: s.reads, draws := s.draws + 1 } := by
  have hdraws : readDraws wa { s with bus := some (.read wa) } = true := by simp [readDraws, hb, hwa]
  rw [access_read, hostRead, hdraws, readValue_released wa (by exact hr), readReg_buf i hwa, if_pos (by exact hb)]
  rfl

/-- Settles O46: the read and the write, busy or not. -/
theorem blockRegisterAccess : Obligations.BlockRegisterAccess := by
  intro s i v hr
  have hwa := regAt_buf i
  have hwrite := access_write_bufWord (v := v) i hr hwa
  rw [writeBuf_eq] at hwrite
  refine ⟨fun hb => ?_, access_read_buf_busy i hr hwa, fun hb => ?_, fun hb => ?_⟩
  · rw [access_read_register hr (.inl hb), readReg_buf i hwa, if_neg (by simp [hb])]
  · rw [hwrite, if_pos hb]
  · rw [if_neg (by simp [hb])] at hwrite
    exact ⟨_, hwrite, rfl, fun j => vector_getElem_set s.buf i j v⟩

/-! The acceptance of a command (R188), and KEYCLR (R197). -/

/-- The two checks of R197: BUSY, KEYLOCK. -/
theorem offer_keyclrChecks (s : State) :
    offer .keyclr (acceptanceChecks s .keyclr) s =
      if s.busy then recordError .busy s
      else if s.stream = .enc ∨ s.stream = .dec then recordError .keylock s
      else start .keyclr s := by
  simp only [← streamOpen_iff, offer, acceptanceChecks]
  cases s.busy with
  | true => rfl
  | false => cases streamOpen s.stream <;> rfl

/-- A write to CMD offers the command with the write on the port (R188). -/
theorem access_write_cmd_offer {w : Word} {i : Instr} (hr : s.rst = false) (hd : decode w = .ok i) :
    access (.write 0x03 w) s =
      .next (offer i (acceptanceChecks { s with bus := some (.write 0x03 w) } i)
        { s with bus := some (.write 0x03 w) }) :=
  (access_write_cmd hr hd).trans (exec_offered i (by simp))

/-- Settles O19: a word that is no command, and each command by the checks of its rule. -/
theorem commandAcceptance : Obligations.CommandAcceptance := by
  intro w s hr p reject started
  cases hd : decode w with
  | error e =>
    rw [access_write_cmd_of_not_decoded hr (by simp [hd])]
    exact apply_ite reject _ _ _
  | ok i =>
    rw [access_write_cmd_offer hr hd]
    cases i with
    | scramble n | unscramble n =>
      rw [acceptanceChecks, offer_transformChecks]
      simp only [apply_ite Host.Outcome.next]
      rfl
    | keyclr =>
      rw [offer_keyclrChecks]
      simp only [apply_ite Host.Outcome.next]
      rfl
    | encopen | decopen =>
      rw [acceptanceChecks, offer_openChecks]
      simp only [apply_ite Host.Outcome.next]
      rfl
    | chunk l =>
      rw [offer_chunkChecks]
      simp only [apply_ite Host.Outcome.next]
      rfl
    | close =>
      rw [offer_closeChecks]
      simp only [apply_ite Host.Outcome.next]
      rfl

/-- Settles O23: the two checks in their order, and the clearing of the key. -/
theorem keyclrCommand : Obligations.KeyclrCommand := fun s =>
  ⟨fun hb => (exec_offered _ hb).trans (congrArg _ (offer_keyclrChecks s)),
    fun hb => ⟨_, exec_keyclr_performed hb, rfl, fun i => Vector.getElem_replicate i.isLt, rfl⟩⟩

end Sys2Proof.Machine
end

section
/-! The proofs about whole steps: the engine sequencer's step, what no step of the host changes, and that a pending
command completes. -/

namespace Sys2Proof.Machine

variable {s t q p : State} {i : Instr}

/-! The step of the engine sequencer (R196). -/

theorem step_engine (ht : nextTurn s = .engine) : step s = engineStep { s with schedule := s.schedule.tail } := by
  rw [step, ht]

theorem step_host (ht : nextTurn s = .host) : step s = hostStep { s with schedule := s.schedule.tail } := by
  rw [step, ht]

/-- Settles O9: the engine sequencer performs what is pending. -/
theorem stepPerformsThePendingCommand : Obligations.StepPerformsThePendingCommand := by
  intro s i ht hr hp
  rw [step_engine ht]
  exact engineStep_performs (by exact hr) (by exact hp)

/-! What may change OUTLEN, BLKCNT, STREAM, KEY and BUF (R199). -/

/-- The host's next action is a write of `v` to the register `r`, with `rst` released. -/
def WritesNext (q : State) (r : Reg) (v : Word) : Prop :=
  q.rst = false ∧ ∃ wa rest, q.script = .access (.write wa v) :: rest ∧ regAt wa = r

/-- What a step of the host other than the assertion of `rst` leaves of the registers that R199 speaks of. -/
structure HostFrame (q t : State) : Prop where
  outlen : t.outlen = q.outlen
  blkcnt : t.blkcnt = q.blkcnt
  stream : t.stream = q.stream
  key : t.key ≠ q.key → ∃ i v, WritesNext q (.key i) v
  buf : t.buf ≠ q.buf → ∃ i v, WritesNext q (.buf i) v

theorem hostFrame_of_unchanged (ho : t.outlen = q.outlen) (hc : t.blkcnt = q.blkcnt) (hm : t.stream = q.stream)
    (hk : t.key = q.key) (hb : t.buf = q.buf) : HostFrame q t :=
  ⟨ho, hc, hm, fun h => absurd hk h, fun h => absurd hb h⟩

/-- A write changes KEY only at an address of KEY, BUF only at one of BUF, and none of the other three (R199). -/
theorem WriteEffect.hostFrame {wa : BitVec 8} {v : Word} {rest : List HostAction}
    (hw : WriteEffect wa v { q with script := rest, bus := some (.write wa v) } t) (hr : q.rst = false)
    (hs : q.script = .access (.write wa v) :: rest) : HostFrame q t := by
  cases hw with
  | reject e => exact hostFrame_of_unchanged (by simp) (by simp) (by simp) (by simp) (by simp)
  | key i hwa => exact ⟨rfl, rfl, rfl, fun _ => ⟨i, v, hr, wa, rest, hs, hwa⟩, fun h => absurd rfl h⟩
  | buf i hwa => exact ⟨rfl, rfl, rfl, fun h => absurd rfl h, fun _ => ⟨i, v, hr, wa, rest, hs, hwa⟩⟩
  | _ => exact hostFrame_of_unchanged rfl rfl rfl rfl rfl

/-- A step of the host asserts `rst`, or keeps that frame (R199, R250). -/
theorem HostEffect.reset_or_hostFrame (h : HostEffect q t) :
    (∃ rest, q.script = .rst true :: rest) ∨ HostFrame q t := by
  cases h with
  | write wa v rest _ hs hr hw => exact .inr (hw.hostFrame hr hs)
  | reset rest hs => exact .inl ⟨rest, hs⟩
  | _ => exact .inr (hostFrame_of_unchanged rfl rfl rfl rfl rfl)

/-- OUTLEN and BLKCNT differ only after the completion of a command of the pipeline other than CLOSE (R199). -/
theorem exec_performed_outlen_blkcnt (hb : s.bus = none) (hx : exec i s = .next t)
    (hne : t.outlen ≠ s.outlen ∨ t.blkcnt ≠ s.blkcnt) : i = .encopen ∨ i = .decopen ∨ ∃ l, i = .chunk l := by
  rcases exec_performed_cases hb hx with ⟨_, -, -, rfl⟩ | ⟨_, -, -, rfl⟩ | ⟨-, rfl⟩ | ⟨hi, -⟩ | ⟨hi, -⟩ | ⟨l, hi, -⟩ |
    ⟨l, hi, -⟩ | ⟨-, rfl⟩
  · simp at hne
  · simp at hne
  · simp at hne
  · exact .inl hi
  · exact .inr (.inl hi)
  · exact .inr (.inr ⟨l, hi⟩)
  · exact .inr (.inr ⟨l, hi⟩)
  · simp at hne

/-- STREAM differs only after the completion of a command of the pipeline (R199). -/
theorem exec_performed_stream_changed (hb : s.bus = none) (hx : exec i s = .next t) (hne : t.stream ≠ s.stream) :
    i = .encopen ∨ i = .decopen ∨ (∃ l, i = .chunk l) ∨ i = .close := by
  rw [exec_performed_stream hb hx] at hne
  cases i with
  | scramble | unscramble | keyclr => exact absurd rfl hne
  | encopen => exact .inl rfl
  | decopen => exact .inr (.inl rfl)
  | chunk l => exact .inr (.inr (.inl ⟨l, rfl⟩))
  | close => exact .inr (.inr (.inr rfl))

/-- BUF differs only after the completion of a transform or of a chunk (R199). -/
theorem exec_performed_buf_changed (hb : s.bus = none) (hx : exec i s = .next t) (hne : t.buf ≠ s.buf) :
    (∃ n, i = .scramble n ∨ i = .unscramble n) ∨ ∃ l, i = .chunk l := by
  rcases exec_performed_cases hb hx with ⟨n, hi, -⟩ | ⟨n, hi, -⟩ | ⟨-, rfl⟩ | ⟨-, rfl⟩ | ⟨-, rfl⟩ | ⟨l, hi, -⟩ |
    ⟨l, hi, -⟩ | ⟨-, rfl⟩
  · exact .inl ⟨n, .inl hi⟩
  · exact .inl ⟨n, .inr hi⟩
  · exact absurd rfl hne
  · exact absurd rfl hne
  · exact absurd rfl hne
  · exact .inr ⟨l, hi⟩
  · exact .inr ⟨l, hi⟩
  · exact absurd rfl hne

/-- Settles O34: a step of the host asserts `rst` or keeps the frame of its write, and the engine sequencer's step is
stalled or a completion. -/
theorem frameOfEveryStep : Obligations.FrameOfEveryStep := by
  intro s t hstep completes resets writes
  cases step_effect hstep with
  | stalled => simp
  | host _ ht he =>
    rcases he.reset_or_hostFrame with hreset | hf
    · have hr : resets := ⟨ht, hreset⟩
      exact ⟨fun _ => .inr (.inr (.inr hr)), fun _ => .inr (.inr (.inr (.inr hr))), fun _ => .inr (.inr hr),
        fun _ => .inr (.inr (.inr hr))⟩
    · refine ⟨fun h => ?_, fun h => absurd hf.stream h, fun h => ?_, fun h => ?_⟩
      · exact absurd h (by simp [hf.outlen, hf.blkcnt])
      · obtain ⟨i, v, hw⟩ := hf.key h
        exact .inl ⟨i, v, ht, hw⟩
      · obtain ⟨i, v, hw⟩ := hf.buf h
        exact .inl ⟨i, v, ht, hw⟩
  | performed i _ ht hr hp hx =>
    have hc : completes i := ⟨ht, hr, hp⟩
    refine ⟨fun h => ?_, fun h => ?_, fun h => ?_, fun h => ?_⟩
    · rcases exec_performed_outlen_blkcnt rfl hx h with rfl | rfl | ⟨l, rfl⟩
      · exact .inl hc
      · exact .inr (.inl hc)
      · exact .inr (.inr (.inl ⟨l, hc⟩))
    · rcases exec_performed_stream_changed rfl hx h with rfl | rfl | ⟨l, rfl⟩ | rfl
      · exact .inl hc
      · exact .inr (.inl hc)
      · exact .inr (.inr (.inl ⟨l, hc⟩))
      · exact .inr (.inr (.inr (.inl hc)))
    · by_cases hi : i = .keyclr
      · exact .inr (.inl (hi ▸ hc))
      · exact absurd (exec_performed_key_unchanged rfl hx hi).1 h
    · rcases exec_performed_buf_changed rfl hx h with ⟨n, rfl | rfl⟩ | ⟨l, rfl⟩
      · exact .inr (.inl ⟨n, .inl hc⟩)
      · exact .inr (.inl ⟨n, .inr hc⟩)
      · exact .inr (.inr (.inl ⟨l, hc⟩))

/-! What a pending command reads (R196, R254). -/

/-- While a command is pending a write changes no more than CTRL, DONE and ERR (R196, R254). -/
theorem WriteEffect.busy_frozen {wa : BitVec 8} {v : Word} (hw : WriteEffect wa v p t) (hb : p.busy = true) :
    t.key = p.key ∧ t.keywr = p.keywr ∧ t.buf = p.buf ∧ t.stream = p.stream ∧ t.pend = p.pend ∧ t.busy = true ∧
      t.outlen = p.outlen ∧ t.blkcnt = p.blkcnt := by
  cases hw with
  | reject e => simp [hb]
  | started i _ _ hf => exact absurd (firstFailure_busy hf) (by simp [hb])
  | key i _ hidle => exact absurd hidle (by simp [hb])
  | buf i _ hidle => exact absurd hidle (by simp [hb])
  | _ => exact ⟨rfl, rfl, rfl, rfl, rfl, hb, rfl, rfl⟩

/-- Settles O58: a write is rejected where it would change them, and no other step of the host touches them. -/
theorem busyFreezesTheInputs : Obligations.BusyFreezesTheInputs := by
  intro s t hb ht hnoReset hstep
  cases step_effect hstep with
  | stalled he => exact absurd (ht.symm.trans he) nofun
  | performed i _ he => exact absurd (ht.symm.trans he) nofun
  | host _ _ he =>
    cases he with
    | write wa v rest _ _ _ hw => exact hw.busy_frozen hb
    | reset rest hs => exact absurd hs (hnoReset rest)
    | _ => exact ⟨rfl, rfl, rfl, rfl, rfl, hb, rfl, rfl⟩

/-! A pending command completes (R257). -/

/-- A completion leaves nothing pending (R196). -/
theorem exec_performed_pend (hb : s.bus = none) (hx : exec i s = .next t) : t.pend = none := by
  rcases exec_performed_cases hb hx with ⟨_, -, -, rfl⟩ | ⟨_, -, -, rfl⟩ | ⟨-, rfl⟩ | ⟨-, rfl⟩ | ⟨-, rfl⟩ |
    ⟨_, -, -, -, rfl⟩ | ⟨_, -, -, -, rfl⟩ | ⟨-, rfl⟩ <;> exact finish_pend _

/-- Under reset nothing is pending (R250). -/
theorem Inv.rst_of_pend (h : Inv s) (hp : s.pend ≠ none) : s.rst = false :=
  Bool.eq_false_iff.2 fun hr => hp (h.reset_held hr).pend

/-- With the schedule used up an enabled completion comes next (R257). -/
theorem nextTurn_of_schedule_nil (hs : s.schedule = []) (hp : s.pend ≠ none) (hr : s.rst = false) :
    nextTurn s = .engine := by
  simp [nextTurn, hs, hr, Option.isSome_iff_ne_none.2 hp]

/-- The engine sequencer's step from a state with a command pending ends with nothing pending (R196). -/
theorem Inv.exists_completion (h : Inv s) (hp : s.pend ≠ none) (ht : nextTurn s = .engine) :
    ∃ t, step s = .next t ∧ t.pend = none := by
  obtain ⟨t, hstep⟩ := stepNeverStops s h
  obtain ⟨i, hi⟩ := Option.ne_none_iff_exists'.1 hp
  refine ⟨t, hstep, ?_⟩
  rw [stepPerformsThePendingCommand s i ht (h.rst_of_pend hp) hi] at hstep
  exact exec_performed_pend rfl hstep

theorem WriteEffect.schedule_eq {wa : BitVec 8} {v : Word} (hw : WriteEffect wa v p t) : t.schedule = p.schedule := by
  cases hw with
  | reject e => exact recordError_schedule p e
  | _ => rfl

/-- What the host does leaves the coming turns as they are (R67). -/
theorem HostEffect.schedule_eq (h : HostEffect q t) : t.schedule = q.schedule := by
  cases h with
  | write wa v rest _ _ _ hw => exact hw.schedule_eq
  | _ => rfl

/-- A step of the host uses up its turn (R67). -/
theorem schedule_of_step_host (ht : nextTurn s = .host) (hstep : step s = .next t) : t.schedule = s.schedule.tail := by
  obtain ⟨u, hu, he⟩ := hostStep_effect { s with schedule := s.schedule.tail }
  rw [step_host ht, hu] at hstep
  cases hstep
  exact he.schedule_eq

theorem core_run_of_step {k : Nat} (h : step s = .next t) : Sys2Proof.core.run (k + 1) s = Sys2Proof.core.run k t := by
  have hcore : Sys2Proof.core.step s = .next t := h
  simp only [Host.Core.run, hcore]

theorem exists_run_of_step (n : Nat) (hstep : step s = .next t) (hdone : t.pend = none) :
    ∃ k ≤ n + 1, ∃ t, Sys2Proof.core.run k s = .next t ∧ t.pend = none :=
  ⟨1, Nat.le_add_left 1 n, t, core_run_of_step hstep, hdone⟩

/-- Along the turns listed a pending command is performed or abandoned, and it is performed when they are used up. -/
theorem Inv.exists_run_completes (ts : List Turn) (h : Inv s) (hp : s.pend ≠ none) (hs : s.schedule = ts) :
    ∃ k ≤ ts.length + 1, ∃ t, Sys2Proof.core.run k s = .next t ∧ t.pend = none := by
  induction ts generalizing s with
  | nil =>
    obtain ⟨t, hstep, hdone⟩ := h.exists_completion hp (nextTurn_of_schedule_nil hs hp (h.rst_of_pend hp))
    exact exists_run_of_step _ hstep hdone
  | cons turn ts ih =>
    have ht : nextTurn s = turn := by rw [nextTurn, hs]
    cases turn with
    | engine =>
      obtain ⟨t, hstep, hdone⟩ := h.exists_completion hp ht
      exact exists_run_of_step _ hstep hdone
    | host =>
      obtain ⟨t, hstep⟩ := stepNeverStops s h
      by_cases hdone : t.pend = none
      · exact exists_run_of_step _ hstep hdone
      · have hts : t.schedule = ts := by rw [schedule_of_step_host ht hstep, hs, List.tail_cons]
        obtain ⟨k, hk, u, hrun, hu⟩ := ih (stepKeepsTheInvariant s t h hstep) hdone hts
        exact ⟨k + 1, Nat.succ_le_succ hk, u, (core_run_of_step hstep).trans hrun, hu⟩

/-- Settles O57: by induction on the turns listed. -/
theorem pendingCommandCompletes : Obligations.PendingCommandCompletes := fun s h hp =>
  h.exists_run_completes s.schedule hp rfl

end Sys2Proof.Machine
end

section
/-! The proofs about which error a rejected write reports: the checks of a write stand in the order of their codes, so
that the first one that fails is the one with the lowest code (R220, R223). -/

namespace Sys2Proof.Machine

variable {s t : State} {e : ErrorName} {wa : BitVec 8} {v : Word}

/-! The first failing check. -/

/-- The checks of a list stand in the strict order of their codes (R220, R223). -/
def InCodeOrder (checks : List (Bool × ErrorName)) : Prop :=
  checks.Pairwise fun a b => (errorCode a.2).toNat < (errorCode b.2).toNat

/-- Of checks in the order of their codes the first that fails is the failing one with the lowest code. -/
theorem InCodeOrder.firstFailure_eq_some_iff {checks : List (Bool × ErrorName)} (h : InCodeOrder checks) :
    firstFailure checks = some e ↔
      (true, e) ∈ checks ∧ ∀ e', (true, e') ∈ checks → (errorCode e).toNat ≤ (errorCode e').toNat := by
  induction checks with
  | nil => simp [firstFailure]
  | cons c rest ih =>
    obtain ⟨hhead, hrest⟩ := List.pairwise_cons.1 h
    obtain ⟨fails, e₀⟩ := c
    cases fails with
    | false => simpa [firstFailure] using ih hrest
    | true =>
      have hlt : ∀ e', (true, e') ∈ rest → (errorCode e₀).toNat < (errorCode e').toNat := fun e' => hhead _
      simp only [firstFailure, if_true, Option.some.injEq]
      constructor
      · rintro rfl
        refine ⟨List.mem_cons_self, fun e' hmem => ?_⟩
        rcases List.mem_cons.1 hmem with heq | hmem
        · cases heq; exact le_rfl
        · exact (hlt e' hmem).le
      · rintro ⟨hmem, hleast⟩
        rcases List.mem_cons.1 hmem with heq | hmem
        · cases heq; rfl
        · exact absurd (hleast e₀ List.mem_cons_self) (hlt e hmem).not_ge

/-- With no error recorded, the code in ERR tells which error `recordError` recorded (R198). -/
theorem recordError_eq_iff {e' : ErrorName} (hs : s.err = 0x00) :
    recordError e' s = { s with err := errorCode e } ↔ e' = e := by
  rw [recordError_of_clear e' hs]
  exact ⟨fun h => errorCode_injective (congrArg State.err h), fun h => by rw [h]⟩

/-- With no error recorded, a write that leaves ERR at 0 unless a check fails reports `e` exactly when `e` is the
failure. -/
theorem elim_recordError_eq_iff {failure : Option ErrorName} (hs : s.err = 0x00) (ht : t.err = 0x00) :
    failure.elim t (recordError · s) = { s with err := errorCode e } ↔ failure = some e := by
  cases failure with
  | none =>
    have hne : t ≠ { s with err := errorCode e } := by
      rintro rfl
      exact errorCode_ne_zero e ht
    exact iff_of_false hne nofun
  | some e' => rw [Option.elim_some, recordError_eq_iff hs, Option.some.injEq]

theorem offer_eq_elim (i : Instr) (checks : List (Bool × ErrorName)) (s : State) :
    offer i checks s = (firstFailure checks).elim (start i s) (recordError · s) := by
  unfold offer
  cases firstFailure checks <;> rfl

/-! The checks of a write to CMD (R188). -/

/-- The checks of a write to CMD in the order of R188; `none` is a word that decodes to no command. -/
def cmdChecks (s : State) : Option Instr → List (Bool × ErrorName)
  | none => [(s.busy, .busy), (true, .illegal)]
  | some i => acceptanceChecks s i

theorem cmdChecks_inCodeOrder (c : Option Instr) (s : State) : InCodeOrder (cmdChecks s c) := by
  rcases c with _ | i
  · simp [InCodeOrder, cmdChecks, errorCode]
  · cases i <;> simp [InCodeOrder, cmdChecks, acceptanceChecks, transformChecks, openChecks, errorCode]

/-- The checks that fail, whatever their order, are those of the list that fail (R220). -/
theorem mem_cmdChecks_iff (c : Option Instr) (s : State) (e : ErrorName) :
    (true, e) ∈ cmdChecks s c ↔ commandFails c s e = true := by
  rcases c with _ | i
  · cases e <;> simp [cmdChecks, commandFails]
  · cases i with
    | scramble n | unscramble n =>
      cases e <;> simp [cmdChecks, acceptanceChecks, transformChecks, commandFails, wordCountOk_eq_false]
    | encopen | decopen => cases e <;> simp [cmdChecks, acceptanceChecks, openChecks, commandFails]
    | chunk l => cases e <;> simp [cmdChecks, acceptanceChecks, commandFails, chunkLengthOk_eq_false]
    | keyclr | close => cases e <;> simp [cmdChecks, acceptanceChecks, commandFails]

/-- A write to CMD reports the first of its checks that fails (R188, R198). -/
theorem access_write_cmd_reports_iff (w : Word) (hr : s.rst = false) (he : s.err = 0x00) :
    access (.write 0x03 w) s = .next { s with bus := some (.write 0x03 w), err := errorCode e } ↔
      firstFailure (cmdChecks s (decode w).toOption) = some e := by
  cases hd : decode w with
  | error d =>
    have hfirst : firstFailure (cmdChecks s none) = some (if s.busy then .busy else .illegal) := by
      cases hb : s.busy <;> simp [cmdChecks, firstFailure, hb]
    rw [access_write_cmd_of_not_decoded hr (by simp [hd]), Host.Outcome.next.injEq, Except.toOption, hfirst,
      Option.some.injEq]
    exact recordError_eq_iff he
  | ok i =>
    have hchecks : acceptanceChecks { s with bus := some (.write 0x03 w) } i = acceptanceChecks s i := by
      cases i <;> rfl
    rw [access_write_cmd_offer hr hd, hchecks, offer_eq_elim, Host.Outcome.next.injEq]
    exact elim_recordError_eq_iff he he

/-! The checks of a write to KEY[i] and BUF[i] (R192, R194). -/

theorem writeKey_eq_elim (i : Fin 4) (v : Word) (s : State) :
    writeKey i v s =
      (firstFailure [(s.busy, .busy), (streamOpen s.stream, .keylock)]).elim (writeKeyWord i v s)
        (recordError · s) := by
  unfold writeKey
  cases firstFailure [(s.busy, .busy), (streamOpen s.stream, .keylock)] <;> rfl

theorem writeBuf_eq_elim (i : Fin 128) (v : Word) (s : State) :
    writeBuf i v s = (firstFailure [(s.busy, .busy)]).elim (writeBufWord i v s) (recordError · s) := by
  unfold writeBuf
  cases firstFailure [(s.busy, .busy)] <;> rfl

theorem firstFailure_singleton_eq_some_iff {b : Bool} {e₁ : ErrorName} :
    firstFailure [(b, e₁)] = some e ↔ e = e₁ ∧ b = true := by
  cases b <;> simp [firstFailure, eq_comm]

theorem firstFailure_pair_eq_some_iff {b₁ b₂ : Bool} {e₁ e₂ : ErrorName} :
    firstFailure [(b₁, e₁), (b₂, e₂)] = some e ↔ (e = e₁ ∧ b₁ = true) ∨ (e = e₂ ∧ b₁ = false ∧ b₂ = true) := by
  cases b₁ <;> cases b₂ <;> simp [firstFailure, eq_comm]

/-- A write to KEY[i] reports BUSY, or else KEYLOCK (R192, R198). -/
theorem access_write_key_reports_iff (i : Fin 4) (hr : s.rst = false) (he : s.err = 0x00) (hwa : regAt wa = .key i) :
    access (.write wa v) s = .next { s with bus := some (.write wa v), err := errorCode e } ↔
      (e = .busy ∧ s.busy = true) ∨ (e = .keylock ∧ s.busy = false ∧ streamOpen s.stream = true) := by
  rw [access_write_key i hr hwa, writeKey_eq_elim, Host.Outcome.next.injEq, ← firstFailure_pair_eq_some_iff]
  exact elim_recordError_eq_iff he he

/-- A write to BUF[i] reports BUSY (R194, R198). -/
theorem access_write_bufWord_reports_iff (i : Fin 128) (hr : s.rst = false) (he : s.err = 0x00)
    (hwa : regAt wa = .buf i) :
    access (.write wa v) s = .next { s with bus := some (.write wa v), err := errorCode e } ↔
      e = .busy ∧ s.busy = true := by
  rw [access_write_bufWord i hr hwa, writeBuf_eq_elim, Host.Outcome.next.injEq, ← firstFailure_singleton_eq_some_iff]
  exact elim_recordError_eq_iff he he

/-- Settles O20: the checks of each register stand in the order of their codes, and the first that fails is
reported. -/
theorem lowestErrorCodeIsReported : Obligations.LowestErrorCodeIsReported := by
  intro s hr he
  refine ⟨?_, fun i _ _ => access_write_key_reports_iff i hr he (regAt_key i),
    fun i _ _ => access_write_bufWord_reports_iff i hr he (regAt_buf i)⟩
  intro w e c
  have hc : c = (decode w).toOption := by simp only [c]; cases decode w <;> rfl
  rw [access_write_cmd_reports_iff w hr he, (cmdChecks_inCodeOrder _ s).firstFailure_eq_some_iff, hc]
  simp only [mem_cmdChecks_iff]

end Sys2Proof.Machine
end

section
/-! The proofs about reset: the values it leaves, the steps that assert and release `rst`, and the accesses made while
it is asserted. -/

namespace Sys2Proof.Machine

variable {s : State} {rest : List HostAction}

/-! The values of reset (R250, R252). -/

theorem AtResetValues.keyValid_eq_false (h : AtResetValues s) : keyValid s = false := by simp [keyValid, h.keywr]

theorem AtResetValues.irq_eq_false (h : AtResetValues s) : irq s = false := Machine.irq_eq_false h.done h.err

/-! The host drives `rst` (R60, R250). -/

/-- On the host's turn the assertion of `rst` is the step, with the action and the turn used up (R67, R250). -/
theorem step_assertReset (ht : nextTurn s = .host) (hs : s.script = .rst true :: rest) :
    step s = .next (assertReset { s with schedule := s.schedule.tail, script := rest }) := by
  simp [step_host ht, hostStep, hs]

/-- On the host's turn the release of `rst` is the step, with the action and the turn used up (R67, R252). -/
theorem step_releaseReset (ht : nextTurn s = .host) (hs : s.script = .rst false :: rest) :
    step s = .next (releaseReset { s with schedule := s.schedule.tail, bus := none, script := rest }) := by
  simp [step_host ht, hostStep, hs]

/-- Settles O52: the step of the host that asserts `rst` makes the reset values, whatever it starts from. -/
theorem resetValues : Obligations.ResetValues := by
  refine ⟨atResetValues_reset, rfl, atResetValues_reset.keyValid_eq_false, atResetValues_reset.irq_eq_false,
    fun s rest ht hs => ?_⟩
  have hreset := atResetValues_assertReset { s with schedule := s.schedule.tail, script := rest }
  exact ⟨_, step_assertReset ht hs, hreset, rfl, hreset.keyValid_eq_false, hreset.irq_eq_false, rfl, rfl⟩

/-! Accesses while `rst` is asserted (R250). -/

theorem access_write_inReset (wa : BitVec 8) (v : Word) (hr : s.rst = true) :
    access (.write wa v) s = .next { s with bus := some (.write wa v) } :=
  if_pos hr

theorem readValue_inReset (wa : BitVec 8) (hr : s.rst = true) : readValue wa s = Config.resetRead s.draws :=
  if_pos hr

theorem readDraws_inReset (wa : BitVec 8) (hr : s.rst = true) : readDraws wa s = true := by simp [readDraws, hr]

/-- A read while `rst` is asserted returns a free value, whatever it addresses, and takes it (R250). -/
theorem access_read_inReset (wa : BitVec 8) (hr : s.rst = true) :
    access (.read wa) s = .next
      { s with bus := some (.read wa), reads := Config.resetRead s.draws :: s.reads, draws := s.draws + 1 } := by
  rw [access_read, hostRead, readValue_inReset wa (by exact hr), readDraws_inReset wa (by exact hr)]
  rfl

/-- Settles O53: the write, the read, and the release of `rst`. -/
theorem accessesAreIgnoredInReset : Obligations.AccessesAreIgnoredInReset := fun _ hr =>
  ⟨fun wa v => access_write_inReset wa v hr, fun wa => access_read_inReset wa hr,
    fun _ ht hs => step_releaseReset ht hs⟩

end Sys2Proof.Machine
end
